-- ==== Sys2Proof/Word.lean ====
section
/-! DEFINITION. The word types of the BGD614: what the manual treats as bits. -/

namespace Sys2Proof

/-- A word of the register window or an entry of the pattern memory (R1, Chapter 10). -/
abbrev Word := BitVec 32

/-- One byte of the pattern memory as the model keeps it. -/
abbrev Byte := BitVec 8

/-- An address of the pattern memory, 000h to FFFh (R1). -/
abbrev Addr := BitVec 12

/-- A launch tag or a SIGNAL tag (R16, R74). -/
abbrev Tag := BitVec 8

/-- An index of the register window, 00h to 7Fh (R162). -/
abbrev Index := BitVec 7

/-- A value of TIME, all arithmetic on which is modulo 2^32 (R26). -/
abbrev Time := BitVec 32

/-- A set of lanes, bit n for lane n (R112, R176). -/
abbrev LaneSet := BitVec 6

end Sys2Proof
end

