-- ==== Sys2Proof/Syntax.lean ====
section
/-! DEFINITION. The commands of the block, one constructor for each row of spec/opcode_table.json,
with the names their operands use, the registers of the window and the step records of the
pattern memory. -/

namespace Sys2Proof

/-- The six lanes (R42). -/
inductive LaneId where
  | l0 | l1 | l2 | l3 | l4 | l5
  deriving DecidableEq, Repr

/-- The two synchronization groups (R112). -/
inductive GroupId where
  | g0 | g1
  deriving DecidableEq, Repr

/-- The four input lines (R126). -/
inductive LineId where
  | in0 | in1 | in2 | in3
  deriving DecidableEq, Repr

/-- The two carrier generators (R99). -/
inductive CarrierId where
  | a | b
  deriving DecidableEq, Repr

/-- A logic level. -/
inductive Level where
  | low | high
  deriving DecidableEq, Repr

/-- The direction of a frame (R162). -/
inductive Direction where
  | read | write
  deriving DecidableEq, Repr

/-- What a short frame cut (R164): the command byte, or a data word at an index. -/
inductive Cut where
  | commandByte
  | dataWord (dir : Direction) (index : Index)
  deriving DecidableEq, Repr

/-- The three divider sets of the timebase (R22). -/
inductive DividerSet where
  | internal | external | holdover
  deriving DecidableEq, Repr

/-- The registers of the window (R174). -/
inductive Reg where
  | id | hostStatus | globalCmd | laneCmd | cmdResult | intStatus | intEnable | portErr
  | tbCtrl | tbStatus | tbDiv (set : DividerSet) | tbTrim | time
  | pmemPtr | pmemData
  | lqDesc0 | lqDesc1 | lqTime
  | groupMembers (g : GroupId) | groupStatus
  | carCtrl (x : CarrierId) | carWidth (x : CarrierId)
  | inCfg (n : LineId) | inLevel
  | capqHead0 | capqHead1 | capqHead2 | capqStatus | capqPop
  | evqHead0 | evqHead1 | evqHead2 | evqHead3 | evqStatus | evqPop
  | laneCfg (n : LaneId) | laneStatus (n : LaneId) | laneStep (n : LaneId) | lanePass (n : LaneId)
  deriving DecidableEq, Repr

/-- The access type of a register (R165, R174). -/
inductive Access where
  | ro | wo | rw
  deriving DecidableEq, Repr

/-- The levels of HOLD and WAIT records (scope file 4.1, R12, R13). -/
inductive StepLevel where
  | low | high | carrier (x : CarrierId)
  deriving DecidableEq, Repr

/-- The sources of a WAIT (R13). -/
inductive WaitSource where
  | line (n : LineId)
  | group (g : GroupId)
  deriving DecidableEq, Repr

/-- A legal step record (R11 to R16). Words that hold none are illegal. -/
inductive StepRecord where
  | endPass
  | hold (level : StepLevel) (duration : BitVec 20)
  | wait (source : WaitSource) (level : StepLevel) (strict : Bool) (timeout : BitVec 16)
  | loop (count : BitVec 12)
  | next
  | sub (target : Addr)
  | back
  | link (target : Addr)
  | signal (tag : Tag)
  | tune (x : CarrierId) (high low : BitVec 8)
  deriving DecidableEq, Repr

/-- The commands and events of the block. Each constructor is one row of spec/opcode_table.json;
LAWS.json maps it to the row's mnemonic. -/
inductive Instr where
  /-- POR -/
  | por
  /-- INIT_CLEAR -/
  | initClear
  /-- RSTN_ASSERT -/
  | rstnAssert
  /-- RSTN_RESET -/
  | rstnReset
  /-- FRAME_START -/
  | frameStart
  /-- SHORT_FRAME -/
  | shortFrame (cut : Cut)
  /-- BAD_INDEX: an access at an index; the word is what a write carries. -/
  | badIndex (dir : Direction) (index : Index) (word : Word)
  /-- READ_ONLY_WRITE -/
  | readOnlyWrite (index : Index) (word : Word)
  /-- REGISTER_WRITE -/
  | registerWrite (index : Index) (word : Word)
  /-- PMEM_DATA_WRITE -/
  | pmemDataWrite (word : Word)
  /-- PMEM_DATA_READ -/
  | pmemDataRead
  /-- TB_TRIM -/
  | tbTrim (word : Word)
  /-- INT_STATUS -/
  | intStatus (word : Word)
  /-- INT_ENABLE -/
  | intEnable (word : Word)
  /-- LANE_CFG -/
  | laneCfg (n : LaneId) (word : Word)
  /-- GROUP_MEMBERS -/
  | groupMembers (g : GroupId) (word : Word)
  /-- CAR_CTRL -/
  | carCtrl (x : CarrierId) (word : Word)
  /-- CAR_WIDTH -/
  | carWidth (x : CarrierId) (word : Word)
  /-- IN_CFG -/
  | inCfg (n : LineId) (word : Word)
  /-- CAPQ_STATUS -/
  | capqStatus (word : Word)
  /-- CAPQ_POP -/
  | capqPop (word : Word)
  /-- EVQ_POP -/
  | evqPop (word : Word)
  /-- SOFT_RESET -/
  | softReset
  /-- TB_USE_INTERNAL -/
  | tbUseInternal
  /-- TB_USE_EXTERNAL -/
  | tbUseExternal
  /-- TB_REARM -/
  | tbRearm
  /-- CAPQ_FLUSH -/
  | capqFlush
  /-- SUBMIT, with the lane number LANE_CMD carries. -/
  | submit (lane : BitVec 3)
  /-- STOP_AT_END -/
  | stopAtEnd (lane : BitVec 3)
  /-- SPLICE -/
  | splice (lane : BitVec 3)
  /-- ABORT -/
  | abort (lane : BitVec 3)
  /-- CLEAR_FAULT -/
  | clearFault (lane : BitVec 3)
  /-- TICK_BOUNDARY -/
  | tickBoundary
  /-- LANE_BOUNDARY -/
  | laneBoundary (n : LaneId)
  /-- HOLD_END -/
  | holdEnd (n : LaneId)
  /-- TIMEOUT_EXPIRY -/
  | timeoutExpiry (n : LaneId)
  /-- WAIT_SATISFIED -/
  | waitSatisfied (n : LaneId)
  /-- LAUNCH_START -/
  | launchStart (n : LaneId)
  /-- SPLICE_LANDING -/
  | spliceLanding (n : LaneId)
  /-- HIGH_PHASE_END -/
  | highPhaseEnd (x : CarrierId)
  /-- PERIOD_END -/
  | periodEnd (x : CarrierId)
  /-- REFIN_EDGE -/
  | refinEdge
  /-- LOCK -/
  | lock
  /-- LOSS_DETECTED -/
  | lossDetected
  /-- IN_PIN_CHANGE, with the level the pin takes. -/
  | inPinChange (n : LineId) (level : Level)
  /-- SAMPLE -/
  | sample (n : LineId)
  /-- FRAME_END -/
  | frameEnd
  /-- LANE_CMD_BAD_COMMAND -/
  | laneCmdBadCommand (op : BitVec 4) (lane : BitVec 3)
  deriving DecidableEq, Repr

end Sys2Proof
end

