-- ==== Sys2Proof/Config.lean ====
section
/-! DEFINITION. The free values: what the manual leaves open. None has a body, so nothing can be
proved of any of them, and a statement that speaks of one holds whatever it is. -/

namespace Sys2Proof

/-- The byte at a byte address of the pattern memory when the supply comes up for the given time
(R2: "any 32-bit value"; log 5). -/
opaque Config.powerUpByte : Nat → Nat → Byte

/-- The rank that orders the events falling due at one IOSC period, at a given draw (the manual
takes such events "in either order"; log 3). -/
opaque Config.eventRank : Nat → Instr → Nat

/-- Which broken set faults first when one fault breaks both groups at once (R121 gives no order;
log 10), at the value of TIME given. -/
opaque Config.groupOneBreaksFirst : Time → Bool

end Sys2Proof
end

