-- ==== Sys2Proof/Machine/Banks.lean ====
section
/-! DEFINITION. Banks: one value for each lane, line, group or carrier, and the names' numbers. -/

namespace Sys2Proof

/-- Lane n's number (R42). -/
def LaneId.num : LaneId → Nat
  | .l0 => 0 | .l1 => 1 | .l2 => 2 | .l3 => 3 | .l4 => 4 | .l5 => 5

/-- The lanes in ascending number, the order R116, R121 and R123 step and fault them in. -/
def LaneId.all : List LaneId := [.l0, .l1, .l2, .l3, .l4, .l5]

/-- The lane a 3-bit lane number names; 6 and 7 name none (R169). -/
def LaneId.ofCode (c : BitVec 3) : Option LaneId :=
  if c = 0 then some .l0 else if c = 1 then some .l1 else if c = 2 then some .l2
  else if c = 3 then some .l3 else if c = 4 then some .l4 else if c = 5 then some .l5 else none

/-- Line n's number (R126). -/
def LineId.num : LineId → Nat
  | .in0 => 0 | .in1 => 1 | .in2 => 2 | .in3 => 3

def LineId.all : List LineId := [.in0, .in1, .in2, .in3]

def GroupId.num : GroupId → Nat
  | .g0 => 0 | .g1 => 1

/-- The other group, h of R121. -/
def GroupId.other : GroupId → GroupId
  | .g0 => .g1 | .g1 => .g0

namespace Machine

/-- One value for each lane. -/
structure PerLane (α : Type) where
  l0 : α
  l1 : α
  l2 : α
  l3 : α
  l4 : α
  l5 : α
  deriving DecidableEq, Repr

/-- One value for each input line. -/
structure PerLine (α : Type) where
  in0 : α
  in1 : α
  in2 : α
  in3 : α
  deriving DecidableEq, Repr

/-- One value for each group. -/
structure PerGroup (α : Type) where
  g0 : α
  g1 : α
  deriving DecidableEq, Repr

/-- One value for each carrier generator. -/
structure PerCarrier (α : Type) where
  a : α
  b : α
  deriving DecidableEq, Repr

def PerLane.get {α : Type} (v : PerLane α) : LaneId → α
  | .l0 => v.l0 | .l1 => v.l1 | .l2 => v.l2 | .l3 => v.l3 | .l4 => v.l4 | .l5 => v.l5

def PerLane.set {α : Type} (v : PerLane α) (n : LaneId) (x : α) : PerLane α :=
  match n with
  | .l0 => { v with l0 := x } | .l1 => { v with l1 := x } | .l2 => { v with l2 := x }
  | .l3 => { v with l3 := x } | .l4 => { v with l4 := x } | .l5 => { v with l5 := x }

/-- Every lane's value at once, by its lane. -/
def PerLane.build {α : Type} (f : LaneId → α) : PerLane α :=
  ⟨f .l0, f .l1, f .l2, f .l3, f .l4, f .l5⟩

def PerLine.get {α : Type} (v : PerLine α) : LineId → α
  | .in0 => v.in0 | .in1 => v.in1 | .in2 => v.in2 | .in3 => v.in3

def PerLine.set {α : Type} (v : PerLine α) (n : LineId) (x : α) : PerLine α :=
  match n with
  | .in0 => { v with in0 := x } | .in1 => { v with in1 := x }
  | .in2 => { v with in2 := x } | .in3 => { v with in3 := x }

def PerLine.build {α : Type} (f : LineId → α) : PerLine α :=
  ⟨f .in0, f .in1, f .in2, f .in3⟩

def PerGroup.get {α : Type} (v : PerGroup α) : GroupId → α
  | .g0 => v.g0 | .g1 => v.g1

def PerGroup.set {α : Type} (v : PerGroup α) (g : GroupId) (x : α) : PerGroup α :=
  match g with
  | .g0 => { v with g0 := x } | .g1 => { v with g1 := x }

def PerGroup.build {α : Type} (f : GroupId → α) : PerGroup α :=
  ⟨f .g0, f .g1⟩

def PerCarrier.get {α : Type} (v : PerCarrier α) : CarrierId → α
  | .a => v.a | .b => v.b

def PerCarrier.set {α : Type} (v : PerCarrier α) (x : CarrierId) (y : α) : PerCarrier α :=
  match x with
  | .a => { v with a := y } | .b => { v with b := y }

def PerCarrier.build {α : Type} (f : CarrierId → α) : PerCarrier α :=
  ⟨f .a, f .b⟩

/-- A count that stops at its largest value ("saturates", scope file 5). -/
def satSucc {w : Nat} (x : BitVec w) : BitVec w :=
  if x = BitVec.allOnes w then x else x + 1

/-- Whether a set of lanes holds lane n (R176: bit n for lane n). -/
def LaneSet.has (m : LaneSet) (n : LaneId) : Bool := m.getLsbD n.num

/-- The set of lane n alone. -/
def LaneSet.single (n : LaneId) : LaneSet := BitVec.ofNat 6 (2 ^ n.num)

def LaneSet.insert (m : LaneSet) (n : LaneId) : LaneSet := m ||| LaneSet.single n

def LaneSet.erase (m : LaneSet) (n : LaneId) : LaneSet := m &&& ~~~ LaneSet.single n

/-- The lanes of a set in ascending number. -/
def LaneSet.toList (m : LaneSet) : List LaneId := LaneId.all.filter (LaneSet.has m)

end Machine
end Sys2Proof
end

