-- ==== Sys2Proof/Decode.lean ====
section
/-! DEFINITION. Reading what the manual encodes: the table's words (it gives none), the register
map, the index of the next word of a frame, step records and the op codes of the two command
registers. -/

namespace Sys2Proof

/-- The command a word of the opcode table spells. No row of spec/opcode_table.json gives bits, so
no word spells one. -/
def decodeTableWord (_nbits _w : Nat) : Option Instr := none

/-- The four registers of lane n at 40h + 4n (R174). -/
def laneRegAt (n : LaneId) (k : Nat) : Reg :=
  if k = 0 then .laneCfg n else if k = 1 then .laneStatus n
  else if k = 2 then .laneStep n else .lanePass n

/-- The register map (R174); none where the index is not in the map. -/
def regAt (i : Index) : Option Reg :=
  match i.toNat with
  | 0x00 => some .id
  | 0x01 => some .hostStatus
  | 0x02 => some .globalCmd
  | 0x03 => some .laneCmd
  | 0x04 => some .cmdResult
  | 0x05 => some .intStatus
  | 0x06 => some .intEnable
  | 0x07 => some .portErr
  | 0x08 => some .tbCtrl
  | 0x09 => some .tbStatus
  | 0x0A => some (.tbDiv .internal)
  | 0x0B => some (.tbDiv .external)
  | 0x0C => some (.tbDiv .holdover)
  | 0x0D => some .tbTrim
  | 0x0E => some .time
  | 0x10 => some .pmemPtr
  | 0x11 => some .pmemData
  | 0x14 => some .lqDesc0
  | 0x15 => some .lqDesc1
  | 0x16 => some .lqTime
  | 0x18 => some (.groupMembers .g0)
  | 0x19 => some (.groupMembers .g1)
  | 0x1A => some .groupStatus
  | 0x1C => some (.carCtrl .a)
  | 0x1D => some (.carWidth .a)
  | 0x1E => some (.carCtrl .b)
  | 0x1F => some (.carWidth .b)
  | 0x20 => some (.inCfg .in0)
  | 0x21 => some (.inCfg .in1)
  | 0x22 => some (.inCfg .in2)
  | 0x23 => some (.inCfg .in3)
  | 0x24 => some .inLevel
  | 0x28 => some .capqHead0
  | 0x29 => some .capqHead1
  | 0x2A => some .capqHead2
  | 0x2B => some .capqStatus
  | 0x2C => some .capqPop
  | 0x30 => some .evqHead0
  | 0x31 => some .evqHead1
  | 0x32 => some .evqHead2
  | 0x33 => some .evqHead3
  | 0x34 => some .evqStatus
  | 0x35 => some .evqPop
  | k =>
    if 0x40 ≤ k ∧ k < 0x58 then
      (LaneId.ofCode (BitVec.ofNat 3 ((k - 0x40) / 4))).map fun n => laneRegAt n ((k - 0x40) % 4)
    else none

/-- The index of a register (R174). -/
def Reg.index : Reg → Index
  | .id => 0x00
  | .hostStatus => 0x01
  | .globalCmd => 0x02
  | .laneCmd => 0x03
  | .cmdResult => 0x04
  | .intStatus => 0x05
  | .intEnable => 0x06
  | .portErr => 0x07
  | .tbCtrl => 0x08
  | .tbStatus => 0x09
  | .tbDiv .internal => 0x0A
  | .tbDiv .external => 0x0B
  | .tbDiv .holdover => 0x0C
  | .tbTrim => 0x0D
  | .time => 0x0E
  | .pmemPtr => 0x10
  | .pmemData => 0x11
  | .lqDesc0 => 0x14
  | .lqDesc1 => 0x15
  | .lqTime => 0x16
  | .groupMembers g => BitVec.ofNat 7 (0x18 + g.num)
  | .groupStatus => 0x1A
  | .carCtrl .a => 0x1C
  | .carWidth .a => 0x1D
  | .carCtrl .b => 0x1E
  | .carWidth .b => 0x1F
  | .inCfg n => BitVec.ofNat 7 (0x20 + n.num)
  | .inLevel => 0x24
  | .capqHead0 => 0x28
  | .capqHead1 => 0x29
  | .capqHead2 => 0x2A
  | .capqStatus => 0x2B
  | .capqPop => 0x2C
  | .evqHead0 => 0x30
  | .evqHead1 => 0x31
  | .evqHead2 => 0x32
  | .evqHead3 => 0x33
  | .evqStatus => 0x34
  | .evqPop => 0x35
  | .laneCfg n => BitVec.ofNat 7 (0x40 + 4 * n.num)
  | .laneStatus n => BitVec.ofNat 7 (0x41 + 4 * n.num)
  | .laneStep n => BitVec.ofNat 7 (0x42 + 4 * n.num)
  | .lanePass n => BitVec.ofNat 7 (0x43 + 4 * n.num)

/-- The access type of a register (R174). -/
def Reg.access : Reg → Access
  | .id | .hostStatus | .cmdResult | .portErr | .tbStatus | .time | .groupStatus | .inLevel
  | .capqHead0 | .capqHead1 | .capqHead2
  | .evqHead0 | .evqHead1 | .evqHead2 | .evqHead3 | .evqStatus
  | .laneStatus _ | .laneStep _ | .lanePass _ => .ro
  | .globalCmd | .laneCmd | .capqPop | .evqPop => .wo
  | .intStatus | .intEnable | .tbCtrl | .tbDiv _ | .tbTrim | .pmemPtr | .pmemData
  | .lqDesc0 | .lqDesc1 | .lqTime | .groupMembers _ | .carCtrl _ | .carWidth _ | .inCfg _
  | .capqStatus | .laneCfg _ => .rw

/-- The registers whose write only stores its word or fields (the table's REGISTER_WRITE row). -/
def Reg.plain : Reg → Bool
  | .pmemPtr | .lqDesc0 | .lqDesc1 | .lqTime | .tbDiv _ | .tbCtrl => true
  | _ => false

/-- The index at which the next data word of a frame is taken (R163, R10). -/
def nextIndex (i : Index) : Index := if i = 0x11 then i else i + 1

/-- The command byte of a frame: bit 7 is the direction, 1 for write, and bits 6 to 0 the index of
the first data word (R162). -/
def commandByte (dir : Direction) (index : Index) : Byte :=
  (match dir with | .write => 1#1 | .read => 0#1) ++ index

/-- The direction a command byte gives (R162). -/
def commandDirection (b : Byte) : Direction := if b.getLsbD 7 then .write else .read

/-- The index a command byte gives (R162). -/
def commandIndex (b : Byte) : Index := b.extractLsb' 0 7

/-- A read at the index shifts out a register's word and does nothing else, so the table has no row
for it (R165). -/
def plainRead (i : Index) : Bool :=
  match regAt i with
  | none | some .pmemData => false
  | some _ => true

/-- A read frame at index c comes to index i over plain reads alone, at most k of them (R163). -/
def readsReach : Nat → Index → Index → Bool
  | 0, c, i => decide (c = i)
  | k + 1, c, i => decide (c = i) || (plainRead c && readsReach k (nextIndex c) i)

/-- The next data word with a row, in a frame of this direction at index c, can be at index i: a
write frame writes index c next, and a read frame passes over plain reads (R163). -/
def wordReaches (dir : Direction) (c i : Index) : Bool :=
  match dir with
  | .write => decide (c = i)
  | .read => readsReach 127 c i

/-- The op code of a GLOBAL_CMD or LANE_CMD word (R175). -/
def opCode (w : Word) : BitVec 4 := w.extractLsb' 0 4

/-- The lane number of a LANE_CMD word (R175). -/
def laneNumber (w : Word) : BitVec 3 := w.extractLsb' 8 3

/-- Both command registers define op codes 1 to 5 (R168, R169). -/
def opDefined (op : BitVec 4) : Bool := decide (1 ≤ op.toNat ∧ op.toNat ≤ 5)

/-- Step levels by their code (R177). -/
def decodeLevel (c : BitVec 2) : StepLevel :=
  if c = 0 then .low else if c = 1 then .high else if c = 2 then .carrier .a else .carrier .b

/-- WAIT sources by their code; 6 to 15 are illegal (R13, R177). -/
def decodeSource (c : BitVec 4) : Option WaitSource :=
  match c.toNat with
  | 0 => some (.line .in0)
  | 1 => some (.line .in1)
  | 2 => some (.line .in2)
  | 3 => some (.line .in3)
  | 4 => some (.group .g0)
  | 5 => some (.group .g1)
  | _ => none

/-- A step record as the sequencer reads an entry (R11 to R16, R177); none for an illegal record. -/
def decodeStep (w : Word) : Option StepRecord :=
  match (w.extractLsb' 28 4).toNat with
  | 0 => some .endPass
  | 1 =>
    let d := w.extractLsb' 0 20
    if d = 0 then none else some (.hold (decodeLevel (w.extractLsb' 26 2)) d)
  | 2 =>
    (decodeSource (w.extractLsb' 24 4)).map fun src =>
      .wait src (decodeLevel (w.extractLsb' 22 2)) (w.getLsbD 21) (w.extractLsb' 0 16)
  | 3 =>
    let c := w.extractLsb' 0 12
    if c = 0 then none else some (.loop c)
  | 4 => some .next
  | 5 => some (.sub (w.extractLsb' 0 12))
  | 6 => some .back
  | 7 => some (.link (w.extractLsb' 0 12))
  | 8 => some (.signal (w.extractLsb' 0 8))
  | 9 =>
    let h := w.extractLsb' 8 8
    let l := w.extractLsb' 0 8
    if h = 0 ∨ l = 0 then none
    else some (.tune (if w.getLsbD 27 then .b else .a) h l)
  | _ => none

/-- The code of a step level (R177). -/
def levelCode : StepLevel → BitVec 2
  | .low => 0 | .high => 1 | .carrier .a => 2 | .carrier .b => 3

/-- The code of a WAIT source (R177, R179). -/
def sourceCode : WaitSource → BitVec 4
  | .line n => BitVec.ofNat 4 n.num
  | .group g => BitVec.ofNat 4 (4 + g.num)

/-- A step record as a word of the pattern memory, unnamed bits 0 (R177). -/
def encodeStep : StepRecord → Word
  | .endPass => 0
  | .hold l d => 1#4 ++ levelCode l ++ 0#6 ++ d
  | .wait src l strict t =>
    2#4 ++ sourceCode src ++ levelCode l ++ BitVec.ofBool strict ++ 0#5 ++ t
  | .loop c => 3#4 ++ 0#16 ++ c
  | .next => 4#4 ++ 0#28
  | .sub t => 5#4 ++ 0#16 ++ t
  | .back => 6#4 ++ 0#28
  | .link t => 7#4 ++ 0#16 ++ t
  | .signal v => 8#4 ++ 0#20 ++ v
  | .tune x h l => 9#4 ++ BitVec.ofBool (decide (x = .b)) ++ 0#11 ++ h ++ l

/-- The fields a step record may legally hold (R12 to R16). -/
def StepRecord.legal : StepRecord → Bool
  | .hold _ d => decide (d ≠ 0)
  | .loop c => decide (c ≠ 0)
  | .tune _ h l => decide (h ≠ 0 ∧ l ≠ 0)
  | _ => true

end Sys2Proof
end

