-- ==== Sys2Proof/Machine/State.lean ====
section
/-! DEFINITION. The state of the block as plain data, its stop reasons, and the state after the
power-on reset. -/

namespace Sys2Proof.Machine

/-! ## Pattern memory and host window (Chapter 1) -/

/-- The pattern memory (R1 to R3). `cells` lists bytes by byte address, entry a at 4a to 4a + 3;
entries below `cleared` have been cleared by INIT; `boot` numbers the power-on resets. -/
structure Pmem where
  cells : List Host.Cell
  cleared : Nat
  boot : Nat
  deriving DecidableEq, Repr

/-- PMEM_PTR (R6). -/
structure PmemPtr where
  addr : Addr
  autoInc : Bool
  deriving DecidableEq, Repr

/-! ## Timebase (Chapter 2) -/

/-- The five timebase states (R40). -/
inductive TbState where
  | internal | qualifying | external | holdover | requalifying
  deriving DecidableEq, Repr

/-- A divider set: the prescale m and the divisor field, 0 standing for 256 (R22). -/
structure Divider where
  m : BitVec 2
  n : BitVec 8
  deriving DecidableEq, Repr

/-- The source of a tick (R23). -/
inductive TickSource where
  | iosc | refin
  deriving DecidableEq, Repr

/-- The tick in progress: what it latched (R23) and the base periods counted in it (R24). -/
structure Tick where
  source : TickSource
  set : DividerSet
  div : Divider
  count : Nat
  deriving DecidableEq, Repr

/-- The pending TIMEBASE record (R37, R38). -/
structure TimebaseRecord where
  state : TbState
  losses : BitVec 8
  locks : BitVec 8
  time : Time
  deriving DecidableEq, Repr

/-- The Timebase Unit. `handedSet` is the divider set handed to the lanes with the last boundary
(R25). -/
structure Timebase where
  state : TbState
  divInt : Divider
  divExt : Divider
  divHold : Divider
  trim : BitVec 5
  autoRearm : Bool
  time : Time
  tick : Tick
  handedSet : DividerSet
  switchReq : Bool
  window : Nat
  qual : Nat
  record : Option TimebaseRecord
  deriving DecidableEq, Repr

/-! ## Event records (Chapter 9) -/

/-- The causes of a lane fault (R66). -/
inductive FaultCause where
  | badStep | stackOverflow | nestError | runaway | waitTimeout | barrierBroken | notMember
  | refLost
  deriving DecidableEq, Repr

/-- The reason of an ABORTED record (R96). -/
inductive AbortReason where
  | hostAbort | flushed | fault (cause : FaultCause)
  deriving DecidableEq, Repr

/-- A DONE record's own fields (R95). LATE is set exactly when the lateness is above 0. -/
structure DoneFields where
  passes : BitVec 16
  stopped : Bool
  spliced : Bool
  holdover : Bool
  lateness : BitVec 16
  deriving DecidableEq, Repr

/-- The kinds of event record with their source, tag and further fields (R146). -/
inductive EventBody where
  | done (n : LaneId) (tag : Tag) (fields : DoneFields)
  | aborted (n : LaneId) (tag : Tag) (passes : BitVec 16) (reason : AbortReason) (addr : Addr)
  | mark (n : LaneId) (tag : Tag) (addr : Addr)
  | waitTimeout (n : LaneId) (tag : Tag) (addr : Addr) (source : WaitSource)
  | groupReleased (g : GroupId) (lanes : LaneSet) (count : BitVec 16)
  | timebase (state : TbState) (losses locks : BitVec 8)
  deriving DecidableEq, Repr

/-- An event record (R146). -/
structure EventRecord where
  time : Time
  droppedBefore : BitVec 8
  body : EventBody
  deriving DecidableEq, Repr

/-- An entry of the deferral list (R152). The k-th entry that names a lane stands for the k-th
oldest AWAIT_POST slot of that lane (DEDUCED, log 14). -/
inductive DeferralEntry where
  | lane (n : LaneId)
  | timebase
  deriving DecidableEq, Repr

/-- The Event Queue (R148, R150, R152). -/
structure EventQueue where
  placed : List EventRecord
  deferral : List DeferralEntry
  dropped : BitVec 8
  deriving DecidableEq, Repr

/-! ## Launch queues (Chapter 4) -/

/-- Start conditions with the field each brings (R74). -/
inductive StartCond where
  | immediate
  | atTime (t : Time)
  | onGroup (g : GroupId)
  | onTrigger (n : LineId)
  deriving DecidableEq, Repr

/-- Rest levels of a descriptor (R74). -/
inductive RestLevel where
  | low | high | last | idle
  deriving DecidableEq, Repr

/-- A launch descriptor (R74). -/
structure Descriptor where
  entry : Addr
  start : StartCond
  passes : BitVec 8
  rest : RestLevel
  tag : Tag
  deriving DecidableEq, Repr

/-- The ACTIVE slot (R74). -/
structure Launch where
  desc : Descriptor
  startMet : Bool
  lateness : BitVec 16
  deriving DecidableEq, Repr

/-- An AWAIT_POST slot with its terminal record (R73, R97). -/
structure HeldSlot where
  desc : Descriptor
  record : EventRecord
  deriving DecidableEq, Repr

/-- A launch queue (R73). The slots in submission order are the awaiting ones, then the active one,
then the pending ones; the three parts hold that order by construction. -/
structure LaunchQueue where
  awaiting : List HeldSlot
  active : Option Launch
  pending : List Descriptor
  deriving DecidableEq, Repr

/-- The staging registers, as written (R75). -/
structure Staging where
  desc0 : Word
  desc1 : Word
  time : Word
  deriving DecidableEq, Repr

/-! ## Lanes (Chapters 3 and 5) -/

/-- Lane states (R42). -/
inductive LaneState where
  | idle | armed | running | waiting | faulted
  deriving DecidableEq, Repr

/-- Configured levels (R43). -/
inductive CfgLevel where
  | low | high | highz
  deriving DecidableEq, Repr

/-- Rest levels in force (R42). -/
inductive RestInForce where
  | low | high | cfgIdle
  deriving DecidableEq, Repr

/-- Holdover policies (R43). -/
inductive HoldoverPolicy where
  | continue | fault
  deriving DecidableEq, Repr

/-- LANEn_CFG (R43). -/
structure LaneCfg where
  idle : CfgLevel
  fault : CfgLevel
  policy : HoldoverPolicy
  guard : Bool
  deriving DecidableEq, Repr

/-- Frames of a lane's stack, the top one first (R65). -/
inductive StackFrame where
  | sub (ret : Addr)
  | loop (body : Addr) (remaining : BitVec 12)
  deriving DecidableEq, Repr

/-- Gate states (R106). -/
inductive Gate where
  | closed
  | open (x : CarrierId)
  | arming (x : CarrierId)
  | shut (x : CarrierId)
  deriving DecidableEq, Repr

/-- A lane: its context (R42), its configuration (R43), its gate and trail (R106) and its launch
queue (R73). `level` and `waitSource` are none for NONE. `ownDue` is the model's own: a boundary
has been handed on and the lane's own event for it has not been taken (log 2). `sinceBoundary` is
the model's own too: an activation, or a release by a command, has reached the lane since that
boundary, so that it acts on it at the boundary after (R79, R80, R117; log 16). `sight` is the
model's own too: none until the lane begins a step at the boundary last handed on, and from then on
the entries a host write has changed since, each with the word it held, so that all the lane fetches
at one boundary is from one content of the memory (R19; log 17). -/
structure Lane where
  state : LaneState
  stepAddr : Addr
  remaining : BitVec 20
  level : Option StepLevel
  rest : RestInForce
  stack : List StackFrame
  zeroRun : Nat
  passesDone : BitVec 16
  splicePending : Bool
  stopPending : Bool
  waitSource : Option WaitSource
  waitStrict : Bool
  waitSatisfied : Bool
  cause : Option FaultCause
  holdoverSeen : Bool
  boundaryTaken : Bool
  ownDue : Bool
  sinceBoundary : Bool
  sight : Option (List (Addr × Word))
  cfg : LaneCfg
  gate : Gate
  trail : Option CarrierId
  queue : LaunchQueue
  deriving DecidableEq, Repr

/-! ## Carriers, groups, lines, capture (Chapters 5 to 8) -/

/-- A width pair (R99). -/
structure WidthPair where
  high : BitVec 8
  low : BitVec 8
  deriving DecidableEq, Repr

/-- A carrier generator (R99). `prescale` is p - 1 as CARx_CTRL holds it; `sub` counts the IOSC
periods of the carrier clock in progress. -/
structure Carrier where
  enable : Bool
  prescale : BitVec 4
  inUse : WidthPair
  pair : Option WidthPair
  phase : Level
  count : Nat
  sub : Nat
  deriving DecidableEq, Repr

/-- A sync group (R112). -/
structure Group where
  members : LaneSet
  arrived : LaneSet
  count : BitVec 16
  deriving DecidableEq, Repr

/-- Edge sets (R126). -/
inductive EdgeSet where
  | none | rise | fall | both
  deriving DecidableEq, Repr

/-- Accepted edges (R128). -/
inductive Edge where
  | rise | fall
  deriving DecidableEq, Repr

/-- An input line (R126): its configuration, its filter state and the level outside drives on its
pin. `filter` is F - 1; `tagCode` is the tag lane as written; `accepted` is none while
UNSETTLED. -/
structure InputLine where
  filter : BitVec 3
  divider : BitVec 3
  trigger : EdgeSet
  capture : EdgeSet
  tagCode : BitVec 3
  sampleCount : Nat
  accepted : Option Level
  runLevel : Level
  runCount : Nat
  pin : Level
  deriving DecidableEq, Repr

/-- The tag lane's snapshot in a capture record (R134). -/
structure Snapshot where
  lane : LaneId
  state : LaneState
  addr : Addr
  tag : Tag
  deriving DecidableEq, Repr

/-- A capture record (R136). -/
structure CaptureRecord where
  line : LineId
  edge : Edge
  time : Time
  phase : BitVec 8
  holdover : Bool
  gap : BitVec 8
  snapshot : Option Snapshot
  deriving DecidableEq, Repr

/-- The Capture Queue (R138, R139, R142). `threshold` is the field, 0 for 32. -/
structure CaptureQueue where
  records : List CaptureRecord
  gap : BitVec 8
  threshold : BitVec 5
  deriving DecidableEq, Repr

/-! ## Host port (Chapters 9 and 10) -/

/-- Result codes (R170). -/
inductive Result where
  | ok | queueFull | laneBusy | laneFaulted | badField | nothingActive | nothingToSplice
  | badSplice | notFaulted | groupBusy | notInHoldover | empty | initBusy | badCommand
  | carrierBusy
  deriving DecidableEq, Repr

/-- CMD_RESULT (R170). -/
structure CmdResult where
  code : Result
  index : Index
  deriving DecidableEq, Repr

/-- Port error causes (R166). -/
inductive PortCause where
  | none | badIndex | readOnly | initAccess | shortFrame
  deriving DecidableEq, Repr

/-- PORT_ERR (R166). -/
structure PortErr where
  cause : PortCause
  index : Index
  deriving DecidableEq, Repr

/-- The sticky causes and INT_ENABLE (R158, R159), the enables by INT_ENABLE's bits. -/
structure Interrupts where
  evqDrop : Bool
  capqGap : Bool
  portError : Bool
  enable : BitVec 5
  deriving DecidableEq, Repr

/-- A frame in progress (R162, R163): the status byte snapshot, and, from its first data word on,
the direction and the index at which the next data word is taken. -/
structure PortFrame where
  status : Byte
  dir : Option Direction
  cursor : Option Index
  deriving DecidableEq, Repr

/-- The host port. `lastRead` is the word the last read command shifted out (log 8). -/
structure HostPort where
  cmdResult : CmdResult
  portErr : PortErr
  frame : Option PortFrame
  csnLow : Bool
  rstnLow : Bool
  lastRead : Option Word
  deriving DecidableEq, Repr

/-! ## The whole part -/

/-- The state of the part. `init` is the start-up periods counted while INIT is in progress, and
none outside INIT (R3). `draws` and `pending` are the model's own (logs 1 and 3). -/
structure State where
  pmem : Pmem
  init : Option Nat
  ptr : PmemPtr
  tb : Timebase
  lanes : PerLane Lane
  staging : Staging
  carriers : PerCarrier Carrier
  groups : PerGroup Group
  inputs : PerLine InputLine
  capq : CaptureQueue
  evq : EventQueue
  ints : Interrupts
  port : HostPort
  draws : Nat
  pending : List Instr
  deriving DecidableEq, Repr

/-- Why the machine stops with a fault. -/
inductive Fault where
  /-- Raised by a lane event whose run of steps at one boundary has used up the model's budget of
  steps. Safe: the machine stops and claims nothing. No run of the part reaches the budget
  (log 9). -/
  | stepBudget
  deriving DecidableEq, Repr

/-- Why a command is refused. -/
inductive Refusal where
  /-- Raised by an arm of exec whose command has no meaning yet. Safe: nothing is claimed of it. -/
  | notModelled (mnemonic : String)
  deriving DecidableEq, Repr

/-! ## Reset values -/

/-- LANEn_CFG after POR and an RSTN reset (R43). -/
def resetLaneCfg : LaneCfg := ⟨.highz, .low, .continue, false⟩

/-- A lane after a reset that leaves the configuration given (R72, R98, R111). -/
def resetLane (cfg : LaneCfg) : Lane where
  state := .idle
  stepAddr := 0
  remaining := 0
  level := none
  rest := .cfgIdle
  stack := []
  zeroRun := 0
  passesDone := 0
  splicePending := false
  stopPending := false
  waitSource := none
  waitStrict := false
  waitSatisfied := false
  cause := none
  holdoverSeen := false
  boundaryTaken := false
  ownDue := false
  sinceBoundary := false
  sight := none
  cfg := cfg
  gate := .closed
  trail := none
  queue := ⟨[], none, []⟩

/-- The Timebase Unit after POR and an RSTN reset (R41, R27). -/
def resetTimebase : Timebase where
  state := .internal
  divInt := ⟨0, 24⟩
  divExt := ⟨0, 10⟩
  divHold := ⟨0, 24⟩
  trim := 0
  autoRearm := false
  time := 0
  tick := ⟨.iosc, .internal, ⟨0, 24⟩, 0⟩
  handedSet := .internal
  switchReq := false
  window := 0
  qual := 0
  record := none

/-- A carrier generator after POR and an RSTN reset (R111). -/
def resetCarrier : Carrier := ⟨false, 0, ⟨1, 1⟩, none, .low, 0, 0⟩

/-- A group after POR and an RSTN reset (R125). -/
def resetGroup : Group := ⟨0, 0, 0⟩

/-- An input line after POR and an RSTN reset, at the pin level given (R135). -/
def resetInput (pin : Level) : InputLine := ⟨1, 0, .none, .none, 7, 0, none, .low, 0, pin⟩

/-- The staging registers after any reset (R75). -/
def resetStaging : Staging := ⟨0, 0, 0⟩

/-- The Capture Queue after a reset that leaves the threshold field given (R145). -/
def resetCaptureQueue (threshold : BitVec 5) : CaptureQueue := ⟨[], 0, threshold⟩

/-- The Event Queue after any reset (R161). -/
def resetEventQueue : EventQueue := ⟨[], [], 0⟩

/-- The causes after a reset that leaves the enables given (R161). -/
def resetInterrupts (enable : BitVec 5) : Interrupts := ⟨false, false, false, enable⟩

/-- The machine right after the power-on reset (log 4). -/
def State.reset : State where
  pmem := ⟨[], 0, 0⟩
  init := some 0
  ptr := ⟨0, false⟩
  tb := resetTimebase
  lanes := PerLane.build fun _ => resetLane resetLaneCfg
  staging := resetStaging
  carriers := PerCarrier.build fun _ => resetCarrier
  groups := PerGroup.build fun _ => resetGroup
  inputs := PerLine.build fun _ => resetInput .low
  capq := resetCaptureQueue 1
  evq := resetEventQueue
  ints := resetInterrupts 0
  port := ⟨⟨.ok, 0⟩, ⟨.none, 0⟩, none, false, false, none⟩
  draws := 0
  pending := []

end Sys2Proof.Machine
end

