-- ==== Sys2Proof/Machine/Operands.lean ====
section
/-! DEFINITION. The fields of register words, read and shown: the codes of Chapter 10 for every
operand form (R175, R176, R178, R179). -/

namespace Sys2Proof.Machine

/-! ## Fields read from written words -/

/-- A configured level by its code; 3 names none (R176). -/
def cfgLevelOf (c : BitVec 2) : Option CfgLevel :=
  if c = 0 then some .low else if c = 1 then some .high else if c = 2 then some .highz else none

/-- A LANEn_CFG word; none where it is refused with BAD_FIELD (R43, R176). -/
def laneCfgOf (w : Word) : Option LaneCfg :=
  match cfgLevelOf (w.extractLsb' 0 2), cfgLevelOf (w.extractLsb' 2 2) with
  | some i, some f =>
    some ⟨i, f, if w.getLsbD 4 then .fault else .continue, w.getLsbD 5⟩
  | _, _ => none

/-- A divider word (R22, R175). -/
def dividerOf (w : Word) : Divider := ⟨w.extractLsb' 8 2, w.extractLsb' 0 8⟩

/-- A PMEM_PTR word (R6, R175). -/
def pmemPtrOf (w : Word) : PmemPtr := ⟨w.extractLsb' 0 12, w.getLsbD 31⟩

/-- An edge set by its code (R176). -/
def edgeSetOf (c : BitVec 2) : EdgeSet :=
  if c = 0 then .none else if c = 1 then .rise else if c = 2 then .fall else .both

/-- A rest level by its code; 4 to 7 name none (R178). -/
def restLevelOf (c : BitVec 3) : Option RestLevel :=
  if c = 0 then some .low else if c = 1 then some .high else if c = 2 then some .last
  else if c = 3 then some .idle else none

/-- A group by the selector of an ON_GROUP descriptor (R178). -/
def groupOf (c : BitVec 3) : Option GroupId :=
  if c = 0 then some .g0 else if c = 1 then some .g1 else none

/-- A line by the selector of an ON_TRIGGER descriptor (R178). -/
def lineOf (c : BitVec 3) : Option LineId :=
  if c = 0 then some .in0 else if c = 1 then some .in1 else if c = 2 then some .in2
  else if c = 3 then some .in3 else none

/-- The fields of the staging words (R178). -/
def Staging.entry (st : Staging) : Addr := st.desc0.extractLsb' 0 12
def Staging.passes (st : Staging) : BitVec 8 := st.desc0.extractLsb' 12 8
def Staging.restCode (st : Staging) : BitVec 3 := st.desc0.extractLsb' 20 3
def Staging.tag (st : Staging) : Tag := st.desc0.extractLsb' 24 8
def Staging.startCode (st : Staging) : BitVec 3 := st.desc1.extractLsb' 0 3
def Staging.selector (st : Staging) : BitVec 3 := st.desc1.extractLsb' 4 3

/-- The staged start condition; none where a code names none (checks 4, 6 and the first half of
check 7 of R76). -/
def Staging.start (st : Staging) : Option StartCond :=
  if st.startCode = 0 then some .immediate
  else if st.startCode = 1 then some (.atTime st.time)
  else if st.startCode = 2 then (groupOf st.selector).map .onGroup
  else if st.startCode = 3 then (lineOf st.selector).map .onTrigger
  else none

/-! ## Numbers a field stands for -/

/-- The divisor N of a set (R22). -/
def Divider.divisor (d : Divider) : Nat := if d.n = 0 then 256 else d.n.toNat

/-- The base periods of one tick, 2^m N (R23). -/
def Divider.total (d : Divider) : Nat := 2 ^ d.m.toNat * d.divisor

/-- The carrier prescale p (R99, R176). -/
def Carrier.p (c : Carrier) : Nat := c.prescale.toNat + 1

/-- The filter count F (R126, R176). -/
def InputLine.f (l : InputLine) : Nat := l.filter.toNat + 1

/-- The tag lane; codes 6 and 7 name none (R176). -/
def InputLine.tagLane (l : InputLine) : Option LaneId := LaneId.ofCode l.tagCode

/-- The capture threshold (R142). -/
def CaptureQueue.level (q : CaptureQueue) : Nat :=
  if q.threshold = 0 then 32 else q.threshold.toNat

/-! ## Codes shown in words read -/

def CfgLevel.code : CfgLevel → BitVec 2
  | .low => 0 | .high => 1 | .highz => 2

def EdgeSet.code : EdgeSet → BitVec 2
  | .none => 0 | .rise => 1 | .fall => 2 | .both => 3

def Edge.code : Edge → BitVec 2
  | .rise => 1 | .fall => 2

def LaneState.code : LaneState → BitVec 3
  | .idle => 0 | .armed => 1 | .running => 2 | .waiting => 3 | .faulted => 4

def TbState.code : TbState → BitVec 3
  | .internal => 0 | .qualifying => 1 | .external => 2 | .holdover => 3 | .requalifying => 4

def TickSource.code : TickSource → BitVec 1
  | .iosc => 0 | .refin => 1

def dividerSetCode : DividerSet → BitVec 2
  | .internal => 0 | .external => 1 | .holdover => 2

def FaultCause.code : FaultCause → BitVec 4
  | .badStep => 8 | .stackOverflow => 9 | .nestError => 10 | .runaway => 11
  | .waitTimeout => 12 | .barrierBroken => 13 | .notMember => 14 | .refLost => 15

def AbortReason.code : AbortReason → BitVec 4
  | .hostAbort => 0 | .flushed => 1 | .fault c => c.code

def Result.code : Result → BitVec 4
  | .ok => 0 | .queueFull => 1 | .laneBusy => 2 | .laneFaulted => 3 | .badField => 4
  | .nothingActive => 5 | .nothingToSplice => 6 | .badSplice => 7 | .notFaulted => 8
  | .groupBusy => 9 | .notInHoldover => 10 | .empty => 11 | .initBusy => 12
  | .badCommand => 13 | .carrierBusy => 14

def PortCause.code : PortCause → BitVec 3
  | .none => 0 | .badIndex => 1 | .readOnly => 2 | .initAccess => 3 | .shortFrame => 4

def levelBit : Level → BitVec 1
  | .low => 0 | .high => 1

/-! ## Record words (R179, R180) -/

/-- The kind code of a record. -/
def EventBody.kind : EventBody → BitVec 4
  | .done .. => 1 | .aborted .. => 2 | .mark .. => 3 | .waitTimeout .. => 4
  | .groupReleased .. => 5 | .timebase .. => 6

/-- The source code of a record. -/
def EventBody.source : EventBody → BitVec 4
  | .done n .. | .aborted n .. | .mark n .. | .waitTimeout n .. => BitVec.ofNat 4 n.num
  | .groupReleased g .. => BitVec.ofNat 4 (9 + g.num)
  | .timebase .. => 8

/-- The tag of a record. -/
def EventBody.tag : EventBody → Tag
  | .done _ t _ | .aborted _ t _ _ _ | .mark _ t _ | .waitTimeout _ t _ _ => t
  | .groupReleased .. | .timebase .. => 0

/-- LATE is set when the lateness is above 0 (R95). -/
def DoneFields.late (d : DoneFields) : Bool := decide (d.lateness ≠ 0)

/-- The length of a record in words (R146). -/
def EventBody.length : EventBody → BitVec 3
  | .done _ _ d => if d.late then 4 else 3
  | _ => 3

/-- Whether a record is essential, by its kind alone (R147). -/
def EventBody.essential : EventBody → Bool
  | .done .. | .aborted .. | .timebase .. => true
  | .mark .. | .waitTimeout .. | .groupReleased .. => false

/-- Word 0, the header. Bits that are no field read 0, here and in the words below (DEDUCED, log
21). -/
def EventRecord.word0 (r : EventRecord) : Word :=
  r.body.kind ++ r.body.source ++ 0#5 ++ r.body.length ++ r.droppedBefore ++ r.body.tag

/-- Word 2, by kind. -/
def EventRecord.word2 (r : EventRecord) : Word :=
  match r.body with
  | .done _ _ d =>
    0#12 ++ BitVec.ofBool d.holdover ++ BitVec.ofBool d.late ++ BitVec.ofBool d.spliced
      ++ BitVec.ofBool d.stopped ++ d.passes
  | .aborted _ _ passes reason addr => reason.code ++ addr ++ passes
  | .mark _ _ addr => 0#20 ++ addr
  | .waitTimeout _ _ addr src => 0#12 ++ sourceCode src ++ 0#4 ++ addr
  | .groupReleased _ lanes count => count ++ 0#10 ++ lanes
  | .timebase st losses locks => 0#8 ++ locks ++ losses ++ 0#5 ++ st.code

/-- Word 3: the lateness of a DONE record with LATE set, and 0 for every other record (R155). -/
def EventRecord.word3 (r : EventRecord) : Word :=
  match r.body with
  | .done _ _ d => 0#16 ++ d.lateness
  | _ => 0

/-- Word 0 of a capture record. -/
def CaptureRecord.word0 (r : CaptureRecord) : Word :=
  0#8 ++ r.gap ++ r.phase ++ BitVec.ofBool r.snapshot.isSome ++ BitVec.ofBool r.holdover
    ++ BitVec.ofNat 2 r.line.num ++ 0#2 ++ r.edge.code

/-- Word 2 of a capture record, 0 when untagged (R140). -/
def CaptureRecord.word2 (r : CaptureRecord) : Word :=
  match r.snapshot with
  | some t => t.tag ++ 0#4 ++ t.addr ++ 0#1 ++ t.state.code ++ 0#1 ++ BitVec.ofNat 3 t.lane.num
  | none => 0

end Sys2Proof.Machine
end

