-- ==== Sys2Proof/Machine/Flags.lean ====
section
/-! DEFINITION. The flags of the part: interrupt causes, IRQN, the status byte and what the port
listens to. -/

namespace Sys2Proof.Machine

/-- EVQ_READY: the Event Queue holds a record (R158). -/
def State.evqReady (s : State) : Bool := !s.evq.placed.isEmpty

/-- CAPQ_READY: the count is at or above the threshold (R143). -/
def State.capqReady (s : State) : Bool := decide (s.capq.level ≤ s.capq.records.length)

/-- INT_STATUS by its bits (R158, R175). -/
def State.causes (s : State) : BitVec 5 :=
  BitVec.ofBool s.ints.portError ++ BitVec.ofBool s.ints.capqGap ++ BitVec.ofBool s.capqReady
    ++ BitVec.ofBool s.ints.evqDrop ++ BitVec.ofBool s.evqReady

/-- IRQN is driven low while a cause is asserted and enabled, and released while RSTN is low
(R160). -/
def State.irqnLow (s : State) : Bool :=
  !s.port.rstnLow && decide (s.causes &&& s.ints.enable ≠ 0)

/-- The status byte (R167, R175). -/
def State.statusByte (s : State) : Byte :=
  BitVec.ofBool s.init.isSome ++ BitVec.ofBool s.irqnLow ++ BitVec.ofBool s.evqReady
    ++ BitVec.ofBool (!s.capq.records.isEmpty) ++ BitVec.ofBool s.ints.portError
    ++ BitVec.ofBool (decide (s.port.cmdResult.code ≠ .ok)) ++ 1#2

/-- SDO is in its high-impedance state while CSN is high, and while RSTN is held low (section 10.1,
R172). -/
def State.sdoHighz (s : State) : Bool := s.port.rstnLow || !s.port.csnLow

/-- INIT is in progress (R3). -/
def State.initBusy (s : State) : Bool := s.init.isSome

/-- The port takes data words: RSTN is high, and it is not waiting for CSN to rise after a release
of RSTN (R172). -/
def State.portListens (s : State) : Bool :=
  !s.port.rstnLow && !(s.port.csnLow && s.port.frame.isNone)

/-- The reference monitor runs in three of the five states (R32). -/
def TbState.monitored : TbState → Bool
  | .qualifying | .external | .requalifying => true
  | .internal | .holdover => false

end Sys2Proof.Machine
end

