-- ==== Sys2Proof/Machine/Memory.lean ====
section
/-! DEFINITION. The pattern memory as canonical cells: reading, writing and clearing (R1 to R3, R7,
R8; log 5). -/

namespace Sys2Proof.Machine

/-- The byte listed at an address, if any. -/
def findCell : List Host.Cell → Nat → Option Byte
  | [], _ => none
  | (a, b) :: rest, k => if a = k then some b else findCell rest k

/-- The list with the byte at address k, in rising order. -/
def insertCell (k : Nat) (v : Byte) : List Host.Cell → List Host.Cell
  | [] => [(k, v)]
  | (a, b) :: rest =>
    if k < a then (k, v) :: (a, b) :: rest
    else if a = k then (k, v) :: rest
    else (a, b) :: insertCell k v rest

/-- The list without the address k. -/
def eraseCell (k : Nat) : List Host.Cell → List Host.Cell
  | [] => []
  | (a, b) :: rest => if a = k then rest else (a, b) :: eraseCell k rest

/-- What an unlisted byte reads as: 0 where INIT has cleared, and elsewhere the byte the memory came
up with (R2, R8). -/
def Pmem.unlisted (m : Pmem) (k : Nat) : Byte :=
  if k < 4 * m.cleared then 0 else Config.powerUpByte m.boot k

/-- The byte at a byte address. -/
def Pmem.readByte (m : Pmem) (k : Nat) : Byte :=
  match findCell m.cells k with
  | some b => b
  | none => m.unlisted k

/-- Storing a byte keeps the canonical form: below the INIT mark a 0 is stored as no entry. -/
def Pmem.writeByte (m : Pmem) (k : Nat) (v : Byte) : Pmem :=
  if k < 4 * m.cleared ∧ v = 0 then { m with cells := eraseCell k m.cells }
  else { m with cells := insertCell k v m.cells }

/-- The word of entry a (R1). -/
def Pmem.read (m : Pmem) (a : Addr) : Word :=
  m.readByte (4 * a.toNat + 3) ++ m.readByte (4 * a.toNat + 2)
    ++ m.readByte (4 * a.toNat + 1) ++ m.readByte (4 * a.toNat)

/-- The word a list of entries and words gives an entry, the first if it is listed. -/
def keptWord : List (Addr × Word) → Addr → Option Word
  | [], _ => none
  | (b, w) :: rest, a => if b = a then some w else keptWord rest a

/-- Storing a whole word in entry a (R7). -/
def Pmem.write (m : Pmem) (a : Addr) (w : Word) : Pmem :=
  (((m.writeByte (4 * a.toNat) (w.extractLsb' 0 8)).writeByte (4 * a.toNat + 1)
    (w.extractLsb' 8 8)).writeByte (4 * a.toNat + 2) (w.extractLsb' 16 8)).writeByte
    (4 * a.toNat + 3) (w.extractLsb' 24 8)

/-- INIT clears the next entry (R3): it reads 0 from then on. -/
def Pmem.clearNext (m : Pmem) : Pmem :=
  { m with
    cells := eraseCell (4 * m.cleared + 3) (eraseCell (4 * m.cleared + 2)
      (eraseCell (4 * m.cleared + 1) (eraseCell (4 * m.cleared) m.cells)))
    cleared := m.cleared + 1 }

/-- The memory a power-on brings up: nothing cleared yet, every byte free (R2, R3). -/
def Pmem.powerUp (m : Pmem) : Pmem := ⟨[], 0, m.boot + 1⟩

/-- Addresses strictly rise, each above the bound given. -/
def risingFrom : Nat → List Host.Cell → Bool
  | _, [] => true
  | lo, (a, _) :: rest => decide (lo ≤ a) && risingFrom (a + 1) rest

/-- The canonical form: addresses strictly rising and within the 4096 entries, the INIT mark within
the memory, and no listed byte equal to the 0 an unlisted byte below the mark reads as. -/
def Pmem.wf (m : Pmem) : Bool :=
  risingFrom 0 m.cells && decide (m.cleared ≤ 4096)
    && m.cells.all fun c =>
      decide (c.1 < 16384) && decide (4 * m.cleared ≤ c.1 ∨ c.2 ≠ 0)

end Sys2Proof.Machine
end

