-- ==== Sys2Proof/Machine/Ops.lean ====
section
/-! DEFINITION. The named operations over the state that every command shares: lanes and groups by
name, results and port errors, the Event Queue and the Capture Queue. A block enters no exception:
raising a cause or a lane fault is the command's effect on the state. -/

namespace Sys2Proof.Machine

/-! ## Parts by name -/

def State.lane (s : State) (n : LaneId) : Lane := s.lanes.get n

def State.setLane (s : State) (n : LaneId) (l : Lane) : State :=
  { s with lanes := s.lanes.set n l }

def State.group (s : State) (g : GroupId) : Group := s.groups.get g

def State.setGroup (s : State) (g : GroupId) (x : Group) : State :=
  { s with groups := s.groups.set g x }

def State.carrier (s : State) (x : CarrierId) : Carrier := s.carriers.get x

def State.setCarrier (s : State) (x : CarrierId) (c : Carrier) : State :=
  { s with carriers := s.carriers.set x c }

def State.input (s : State) (n : LineId) : InputLine := s.inputs.get n

def State.setInput (s : State) (n : LineId) (l : InputLine) : State :=
  { s with inputs := s.inputs.set n l }

/-- The number of slots of a launch queue (R73). -/
def LaunchQueue.slots (q : LaunchQueue) : Nat :=
  q.awaiting.length + q.active.toList.length + q.pending.length

/-- The active tag of a lane, 0 without an ACTIVE descriptor (R71). -/
def Lane.activeTag (l : Lane) : Tag :=
  match l.queue.active with
  | some a => a.desc.tag
  | none => 0

/-! ## Results and port errors -/

/-- A write reports its outcome to CMD_RESULT (R170). -/
def State.report (s : State) (code : Result) (index : Index) : State :=
  { s with port := { s.port with cmdResult := ⟨code, index⟩ } }

/-- A port error sets PORT_ERROR, and is latched in PORT_ERR if PORT_ERROR was clear (R166). -/
def State.portError (s : State) (cause : PortCause) (index : Index) : State :=
  { s with
    port := { s.port with
      portErr := if s.ints.portError then s.port.portErr else ⟨cause, index⟩ }
    ints := { s.ints with portError := true } }

/-- A frame whose command byte has been shifted in: its direction and its first index (R162). -/
def PortFrame.commanded (f : PortFrame) (b : Byte) : PortFrame :=
  { f with dir := some (commandDirection b), cursor := some (commandIndex b) }

/-- The frame a data word belongs to, given the one in progress and the status byte as it stands:
the word goes on with a frame whose direction is its own and whose index comes to its index; it is
the first word of a frame whose command byte is still to come; and since a frame reads or writes,
never both, and its indices follow each other, any other word belongs to a frame begun after that
one (R162, R163; log 12). -/
def PortFrame.forWord (status : Byte) (dir : Direction) (index : Index) (f : PortFrame) :
    PortFrame :=
  match f.dir, f.cursor with
  | some d, some c =>
    if d = dir ∧ wordReaches dir c index = true then f
    else (PortFrame.mk status none none).commanded (commandByte dir index)
  | _, _ => f.commanded (commandByte dir index)

/-- A data word is taken at an index: its frame's index advances (R163). A word with no frame in
progress is a whole frame of one word (log 12). -/
def State.advanceFrame (s : State) (dir : Direction) (index : Index) : State :=
  { s with
    port := { s.port with
      frame := s.port.frame.map fun f =>
        { f.forWord s.statusByte dir index with cursor := some (nextIndex index) } } }

/-- A data word at an index, taken if the port listens: its effect by the register's rule, and the
frame's index advances (R163, R172). -/
def hostWord (dir : Direction) (index : Index) (effect : State → State) (s : State) : State :=
  if s.portListens then effect (s.advanceFrame dir index) else s

/-- While RSTN is held low the part takes no event (R172). -/
def unlessHeld (effect : State → State) (s : State) : State :=
  if s.port.rstnLow then s else effect s

/-! ## Event Queue (Chapter 9) -/

/-- An offered record is placed when the queue has room and the deferral list is empty (R149). -/
def EventQueue.canPlace (q : EventQueue) : Bool :=
  decide (q.placed.length < 32) && q.deferral.isEmpty

/-- Placing a record fills in its dropped_before and clears the dropped count (R149, R150). -/
def EventQueue.place (q : EventQueue) (r : EventRecord) : EventQueue :=
  { q with placed := q.placed ++ [{ r with droppedBefore := q.dropped }], dropped := 0 }

/-- An informational record is placed, or dropped and counted with EVQ_DROP set (R149 to R151). -/
def offerInfo (body : EventBody) (s : State) : State :=
  if s.evq.canPlace then { s with evq := s.evq.place ⟨s.tb.time, 0, body⟩ }
  else
    { s with
      evq := { s.evq with dropped := satSucc s.evq.dropped }
      ints := { s.ints with evqDrop := true } }

/-- The terminal record of a launch is placed, its slot leaving the queue at once, or is deferred
in its AWAIT_POST slot (R86, R97, R149, R152). -/
def postTerminal (n : LaneId) (desc : Descriptor) (body : EventBody) (s : State) : State :=
  if s.evq.canPlace then { s with evq := s.evq.place ⟨s.tb.time, 0, body⟩ }
  else
    let l := s.lane n
    let held : HeldSlot := ⟨desc, ⟨s.tb.time, 0, body⟩⟩
    { s.setLane n { l with queue := { l.queue with awaiting := l.queue.awaiting ++ [held] } } with
      evq := { s.evq with deferral := s.evq.deferral ++ [.lane n] } }

/-- The pending TIMEBASE record as an event record (R37). -/
def TimebaseRecord.event (r : TimebaseRecord) : EventRecord :=
  ⟨r.time, 0, .timebase r.state r.losses r.locks⟩

/-- A loss or a lock is recorded: it updates the pending TIMEBASE record where there is one, and
else prepares a record, placed or deferred at the TBU (R37, R38). -/
def recordTimebase (st : TbState) (loss lock : Bool) (s : State) : State :=
  match s.tb.record with
  | some r =>
    { s with
      tb := { s.tb with
        record := some
          ⟨st, if loss then satSucc r.losses else r.losses,
            if lock then satSucc r.locks else r.locks, s.tb.time⟩ } }
  | none =>
    let r : TimebaseRecord :=
      ⟨st, if loss then 1 else 0, if lock then 1 else 0, s.tb.time⟩
    if s.evq.canPlace then { s with evq := s.evq.place r.event }
    else
      { s with
        tb := { s.tb with record := some r }
        evq := { s.evq with deferral := s.evq.deferral ++ [.timebase] } }

/-- The rank of an entry among those deferred at one event (R152). -/
def DeferralEntry.rank : DeferralEntry → Nat
  | .lane n => n.num
  | .timebase => 6

/-- An entry put behind every entry of its rank or a lower one. -/
def insertEntry (e : DeferralEntry) : List DeferralEntry → List DeferralEntry
  | [] => [e]
  | x :: rest => if e.rank < x.rank then e :: x :: rest else x :: insertEntry e rest

/-- Entries in the order of one event: ascending lane number, a lane's own in the order they were
offered, the timebase last (R152). -/
def sortEntries (l : List DeferralEntry) : List DeferralEntry :=
  l.foldl (fun acc e => insertEntry e acc) []

/-- The source of the first deferred record lets go of it and the queue places it (R154). -/
def placeDeferred (s : State) : State :=
  match s.evq.deferral with
  | [] => s
  | .lane n :: rest =>
    let l := s.lane n
    match l.queue.awaiting with
    | [] => { s with evq := { s.evq with deferral := rest } }
    | held :: more =>
      { s.setLane n { l with queue := { l.queue with awaiting := more } } with
        evq := { s.evq with deferral := rest }.place held.record }
  | .timebase :: rest =>
    match s.tb.record with
    | none => { s with evq := { s.evq with deferral := rest } }
    | some r =>
      { s with
        tb := { s.tb with record := none }
        evq := { s.evq with deferral := rest }.place r.event }

/-- A pop of the Event Queue (R154, R156). -/
def popEvent (s : State) : State :=
  match s.evq.placed with
  | [] => s.report .empty Reg.evqPop.index
  | _ :: rest =>
    (placeDeferred { s with evq := { s.evq with placed := rest } }).report .ok Reg.evqPop.index

/-! ## Capture Queue (Chapter 8) -/

/-- A capture record is stored with the gap count, or dropped and counted with CAPQ_GAP set (R138,
R139). -/
def offerCapture (r : CaptureRecord) (s : State) : State :=
  if s.capq.records.length < 32 then
    { s with
      capq := { s.capq with records := s.capq.records ++ [{ r with gap := s.capq.gap }], gap := 0 } }
  else
    { s with
      capq := { s.capq with gap := satSucc s.capq.gap }
      ints := { s.ints with capqGap := true } }

/-- A pop of the Capture Queue (R141). -/
def popCapture (s : State) : State :=
  match s.capq.records with
  | [] => s.report .empty Reg.capqPop.index
  | _ :: rest => { s with capq := { s.capq with records := rest } }.report .ok Reg.capqPop.index

/-! ## Pattern memory window (Chapter 1) -/

/-- The pointer after a PMEM_DATA access outside INIT (R7, R8). -/
def PmemPtr.advance (p : PmemPtr) : PmemPtr :=
  if p.autoInc then { p with addr := p.addr + 1 } else p

/-- The word lane n fetches from entry a: the one stored, or, where the lane has already begun a
step at this boundary and a host write has come since, the one stored before that write (R17, R19;
log 17). -/
def State.fetchWord (s : State) (n : LaneId) (a : Addr) : Word :=
  match (s.lane n).sight with
  | none => s.pmem.read a
  | some kept => (keptWord kept a).getD (s.pmem.read a)

/-- A lane that begins a step at address a: from here on a host write comes behind all that the lane
begins at this boundary (R19, R49; log 17). -/
def Lane.beginStep (a : Addr) (l : Lane) : Lane :=
  { l with stepAddr := a, sight := some (l.sight.getD []) }

/-- A lane that has begun a step at this boundary keeps the word a host write replaces (R19). -/
def Lane.keepWord (a : Addr) (old : Word) (l : Lane) : Lane :=
  { l with
    sight := l.sight.map fun kept => if (keptWord kept a).isSome then kept else (a, old) :: kept }

/-- A completed PMEM_DATA write (R4, R7, R19). -/
def writePmem (w : Word) (s : State) : State :=
  if s.initBusy then s.portError .initAccess Reg.pmemData.index
  else
    { s with
      pmem := s.pmem.write s.ptr.addr w, ptr := s.ptr.advance
      lanes := PerLane.build fun n =>
        (s.lane n).keepWord s.ptr.addr (s.pmem.read s.ptr.addr) }

/-- A completed PMEM_DATA read (R4, R8). -/
def readPmem (s : State) : State :=
  if s.initBusy then
    let s1 := s.portError .initAccess Reg.pmemData.index
    { s1 with port := { s1.port with lastRead := some 0 } }
  else
    { s with
      ptr := s.ptr.advance
      port := { s.port with lastRead := some (s.pmem.read s.ptr.addr) } }

end Sys2Proof.Machine
end

