-- ==== Sys2Proof/Machine/Gates.lean ====
section
/-! DEFINITION. Carrier levels, gates, segments and trails (Chapter 5), and the end of one event. -/

namespace Sys2Proof.Machine

/-- The carrier level of a generator (R99). -/
def Carrier.level (c : Carrier) : Level := if c.enable then c.phase else .low

/-- The carrier a lane calls for (R106): its current level's, in RUNNING and WAITING. -/
def Lane.called (l : Lane) : Option CarrierId :=
  match l.state, l.level with
  | .running, some (.carrier x) => some x
  | .waiting, some (.carrier x) => some x
  | _, _ => none

/-- The end of a segment on x: a guarded gate open on a HIGH phase leaves a trail (R107, R109). -/
def endSegment (c : Carrier) (x : CarrierId) (l : Lane) : Lane :=
  if l.cfg.guard = true ∧ l.gate = .open x ∧ c.level = .high then
    { l with gate := .closed, trail := some x }
  else { l with gate := .closed }

/-- The beginning of a segment on x (R107 to R109). -/
def beginSegment (x : CarrierId) (l : Lane) : Lane :=
  if l.trail = some x then { l with gate := .open x, trail := none }
  else if l.cfg.guard then { l with gate := .arming x }
  else { l with gate := .open x }

/-- What a lane event does to the lane's gate: only the carrier called for before and after the
event counts (R106). Where an event ends a segment on y that leaves a trail and begins one on x
while a trail on x still stands, R109 gives the event both effects: the model takes the end first,
so that the trail is y and the gate ARMING on x (DESIGN CHOICE, log 20). -/
def judgeSegment (cs : PerCarrier Carrier) (before after : Lane) : Lane :=
  if before.called = after.called then after
  else
    let ended :=
      match before.called with
      | some x => endSegment (cs.get x) x after
      | none => after
    match after.called with
    | some y => beginSegment y ended
    | none => ended

/-- The end of one event: the records it deferred stand in the order of R152, and each lane's gate
follows the level the lane now calls for (R106). -/
def settle (old new : State) : State :=
  { new with
    lanes := PerLane.build fun n => judgeSegment new.carriers (old.lane n) (new.lane n)
    evq := { new.evq with
      deferral := new.evq.deferral.take old.evq.deferral.length
        ++ sortEntries (new.evq.deferral.drop old.evq.deferral.length) } }

/-- The start of a high phase of x opens every gate ARMING on it (R108). -/
def Lane.openGate (x : CarrierId) (l : Lane) : Lane :=
  if l.gate = .arming x then { l with gate := .open x } else l

/-- The end of a high phase of x ends every trail on it (R109). -/
def Lane.endTrail (x : CarrierId) (l : Lane) : Lane :=
  if l.trail = some x then { l with trail := none } else l

/-- Disabling x shuts every gate on it, open or waiting (R105). -/
def Lane.shutGate (x : CarrierId) (l : Lane) : Lane :=
  if l.gate = .open x ∨ l.gate = .arming x then { l with gate := .shut x } else l

/-- A reset, a fault or an abort cuts a lane's carrier output (R110). -/
def Lane.cutCarrier (l : Lane) : Lane := { l with gate := .closed, trail := none }

/-- A generator is enabled: any pending pair applies, and a first period begins HIGH (R101, R108).
-/
def enableCarrier (x : CarrierId) (prescale : BitVec 4) (s : State) : State :=
  let c := s.carrier x
  let s1 := s.setCarrier x
    { c with
      enable := true, prescale := prescale, inUse := c.pair.getD c.inUse, pair := none
      phase := .high, count := 0, sub := 0 }
  { s1 with lanes := PerLane.build fun n => (s.lane n).openGate x }

/-- A generator is disabled: it stops LOW, its gates are shut and its trails end (R105). -/
def disableCarrier (x : CarrierId) (s : State) : State :=
  let s1 := s.setCarrier x { s.carrier x with enable := false, phase := .low, count := 0, sub := 0 }
  { s1 with lanes := PerLane.build fun n => ((s.lane n).shutGate x).endTrail x }

/-- The end of a high phase (R102). -/
def endHighPhase (x : CarrierId) (s : State) : State :=
  let s1 := s.setCarrier x { s.carrier x with phase := .low, count := 0, sub := 0 }
  { s1 with lanes := PerLane.build fun n => (s.lane n).endTrail x }

/-- A period end: any pending pair applies, and a new period begins HIGH (R102, R108). -/
def endPeriod (x : CarrierId) (s : State) : State :=
  let c := s.carrier x
  let s1 := s.setCarrier x
    { c with inUse := c.pair.getD c.inUse, pair := none, phase := .high, count := 0, sub := 0 }
  { s1 with lanes := PerLane.build fun n => (s.lane n).openGate x }

/-- A width pair becomes the pending pair of a generator (R63, R103, R104). -/
def setPendingPair (x : CarrierId) (pair : WidthPair) (s : State) : State :=
  s.setCarrier x { s.carrier x with pair := some pair }

/-! ## The output pins -/

/-- What an output pin shows. -/
inductive PinLevel where
  | low | high | highz
  deriving DecidableEq, Repr

def CfgLevel.pin : CfgLevel → PinLevel
  | .low => .low | .high => .high | .highz => .highz

def levelPin : Level → PinLevel
  | .low => .low | .high => .high

/-- The level of the rest level in force (R44). -/
def Lane.restPin (l : Lane) : PinLevel :=
  match l.rest with
  | .low => .low
  | .high => .high
  | .cfgIdle => l.cfg.idle.pin

/-- What a lane's gate passes of the carriers (R106). -/
def Lane.gatePin (cs : PerCarrier Carrier) (l : Lane) : PinLevel :=
  match l.gate with
  | .open x => levelPin (cs.get x).level
  | .closed | .arming _ | .shut _ => .low

/-- The level of OUTn (R44, R45, R72, R106). -/
def State.pinLevel (s : State) (n : LaneId) : PinLevel :=
  if s.port.rstnLow then .highz
  else if (s.lane n).trail.isSome then .high
  else
    match (s.lane n).state with
    | .idle | .armed => (s.lane n).restPin
    | .faulted => (s.lane n).cfg.fault.pin
    | .running | .waiting =>
      match (s.lane n).level with
      | some .low => .low
      | some .high => .high
      | some (.carrier _) => (s.lane n).gatePin s.carriers
      | none => (s.lane n).restPin

end Sys2Proof.Machine
end

