-- ==== Sys2Proof/Machine/LaneRun.lean ====
section
/-! DEFINITION. What a lane does inside one event: faults and broken barriers, retirement and
activation, arrival and release, the step kinds, and the run of steps at a boundary (Chapters 3, 4
and 6). -/

namespace Sys2Proof.Machine

/-- What is still to be done inside one boundary event, the next first. -/
inductive Work where
  /-- Lane n begins a step at an address (R49). -/
  | step (n : LaneId) (a : Addr)
  /-- Lane n's ACTIVE launch starts (R84). -/
  | start (n : LaneId)
  /-- Lane n, a released lane, is stepped or started in its turn (R57, R82, R116). -/
  | released (n : LaneId)
  deriving DecidableEq, Repr

/-! ## Faults (R66, R67, R121) -/

/-- A lane leaves every arrived set (R119, R67). -/
def depart (n : LaneId) (s : State) : State :=
  { s with
    groups := PerGroup.build fun g =>
      { s.group g with arrived := LaneSet.erase (s.group g).arrived n } }

/-- A lane's fields after its fault entry: items 1, 2 and 5 of R67, the ACTIVE slot gone, and the
carrier cut of R110. -/
def Lane.faulted (cause : FaultCause) (l : Lane) : Lane :=
  { l with
    state := .faulted, splicePending := false, stopPending := false, stack := []
    zeroRun := 0, remaining := 0, waitSatisfied := false, waitSource := none
    cause := some cause, gate := .closed, trail := none
    queue := { l.queue with active := none } }

/-- A lane's own part of fault entry: items 1, 2, 4 and 5 of R67. -/
def enterFault (cause : FaultCause) (n : LaneId) (s : State) : State :=
  let l := s.lane n
  let s1 := s.setLane n (l.faulted cause)
  match l.queue.active with
  | none => s1
  | some a =>
    postTerminal n a.desc (.aborted n a.desc.tag l.passesDone (.fault cause) l.stepAddr) s1

/-- A group is broken by the fault of one of the lanes given: one of them is a member and lanes are
held (R121). -/
def groupHit (s : State) (ls : List LaneId) (g : GroupId) : Bool :=
  decide ((s.group g).arrived ≠ 0) && ls.any (fun n => LaneSet.has (s.group g).members n)

/-- The groups a fault breaks, in the order their broken sets fault. The order of two at once is a
free value (log 10). -/
def brokenGroups (s : State) (ls : List LaneId) : List GroupId :=
  if groupHit s ls .g0 then
    if groupHit s ls .g1 then
      if Config.groupOneBreaksFirst s.tb.time then [.g1, .g0] else [.g0, .g1]
    else [.g0]
  else if groupHit s ls .g1 then [.g1] else []

/-- The lanes held at the groups given. -/
def heldAt (s : State) (gs : List GroupId) : List LaneId :=
  gs.flatMap fun g => LaneSet.toList (s.group g).arrived

/-- A broken group's arrived set is emptied (R121). -/
def emptyArrived (gs : List GroupId) (s : State) : State :=
  { s with
    groups := PerGroup.build fun g =>
      if g ∈ gs then { s.group g with arrived := 0 } else s.group g }

/-- The breaks the faults of the lanes given cause, the second break included: the state with the
broken groups emptied, and the broken lanes in the order they fault (R121). -/
def breakBarriers (ls : List LaneId) (s : State) : State × List LaneId :=
  let firsts := brokenGroups s ls
  let lanes1 := heldAt s firsts
  let s1 := emptyArrived firsts s
  let seconds := brokenGroups s1 lanes1
  (emptyArrived seconds s1, lanes1 ++ heldAt s1 seconds)

/-- Fault entry of one lane with the breaks it causes (R67, R121). -/
def faultLane (cause : FaultCause) (n : LaneId) (s : State) : State :=
  let broken := breakBarriers [n] (depart n s)
  broken.2.foldl (fun t m => enterFault .barrierBroken m t) (enterFault cause n broken.1)

/-! ## Groups (R115, R116) -/

/-- A member of a group is FAULTED (R56, R82, R115). -/
def memberFaulted (s : State) (g : GroupId) : Bool :=
  (LaneSet.toList (s.group g).members).any fun m => decide ((s.lane m).state = .faulted)

/-- Lane n's arrival would complete the group (R51). -/
def completes (s : State) (g : GroupId) (n : LaneId) : Bool :=
  decide (LaneSet.insert (s.group g).arrived n = (s.group g).members)

/-- Start met is set in the ACTIVE slot (R79, R80, R82). -/
def Lane.meetStart (l : Lane) : Lane :=
  { l with
    queue := { l.queue with active := l.queue.active.map fun a => { a with startMet := true } } }

/-- A released lane between boundaries: its wait is satisfied or its start is met, and it takes its
step at the next boundary, with every lane of the release. That is not the boundary last handed on,
should its own event for it still be to come (R25, R57, R82, R117; log 16). -/
def Lane.releaseBetween (l : Lane) : Lane :=
  match l.state with
  | .waiting => { l with waitSatisfied := true, sinceBoundary := l.ownDue }
  | .armed => { l.meetStart with sinceBoundary := l.ownDue }
  | .idle | .running | .faulted => l

/-- The release of a group (R116, R117, R118). -/
def releaseGroup (g : GroupId) (atBoundary : Bool) (s : State) : State × List Work :=
  let grp := s.group g
  let s1 := s.setGroup g { grp with arrived := 0, count := grp.count + 1 }
  let s2 := offerInfo (.groupReleased g grp.arrived (grp.count + 1)) s1
  if atBoundary then (s2, (LaneSet.toList grp.arrived).map .released)
  else
    ({ s2 with
        lanes := PerLane.build fun n =>
          if LaneSet.has grp.arrived n then (s2.lane n).releaseBetween else s2.lane n }, [])

/-- Items 3 and 4 of an arrival (R115). -/
def arrive (g : GroupId) (n : LaneId) (atBoundary : Bool) (s : State) : State × List Work :=
  let grp := s.group g
  let s1 := s.setGroup g { grp with arrived := LaneSet.insert grp.arrived n }
  if completes s g n then releaseGroup g atBoundary s1 else (s1, [])

/-! ## Activation (R78 to R82) -/

/-- A start that is met at once: at a boundary the launch starts there, between boundaries start met
is set (R79, R80). -/
def startNow (n : LaneId) (atBoundary : Bool) (s : State) : State × List Work :=
  if atBoundary then (s, [.start n]) else (s.setLane n (s.lane n).meetStart, [])

/-- A start time lies ahead when its distance from TIME is 1 to 2^31 - 1 (R80). -/
def liesAhead (start now : Time) : Bool :=
  decide (1 ≤ (start - now).toNat ∧ (start - now).toNat < 2 ^ 31)

/-- The start condition of a descriptor just activated is applied (R79 to R82). -/
def applyStart (n : LaneId) (start : StartCond) (atBoundary : Bool) (s : State) :
    State × List Work :=
  match start with
  | .immediate => startNow n atBoundary s
  | .atTime t => if liesAhead t s.tb.time then (s, []) else startNow n atBoundary s
  | .onTrigger _ => (s, [])
  | .onGroup g =>
    if LaneSet.has (s.group g).members n = false then (faultLane .notMember n s, [])
    else if memberFaulted s g then (faultLane .barrierBroken n s, [])
    else arrive g n atBoundary s

/-- A lane that has activated a descriptor, the PENDING ones left given (R42, R78). An own event
still to come is one for a boundary before the activation, and does not start the launch (R79, R80;
log 16). -/
def Lane.armedOn (d : Descriptor) (rest : List Descriptor) (l : Lane) : Lane :=
  { l with
    state := .armed, stepAddr := d.entry, remaining := 0, passesDone := 0, zeroRun := 0
    level := none, sinceBoundary := l.ownDue
    queue := { l.queue with active := some ⟨d, false, 0⟩, pending := rest } }

/-- The oldest PENDING descriptor, if any, is activated (R78). -/
def activate (n : LaneId) (atBoundary : Bool) (s : State) : State × List Work :=
  let l := s.lane n
  match l.queue.pending with
  | [] => (s, [])
  | d :: rest =>
    applyStart n d.start atBoundary (s.setLane n (l.armedOn d rest))

/-! ## Retirement (R86, R87, R95) -/

/-- The rest level in force a descriptor's rest level resolves to (R87). -/
def resolveRest (rest : RestLevel) (level : Option StepLevel) : RestInForce :=
  match rest, level with
  | .low, _ => .low
  | .high, _ => .high
  | .last, some .low => .low
  | .last, some .high => .high
  | .last, some (.carrier _) => .low
  | .last, none => .cfgIdle
  | .idle, _ => .cfgIdle

/-- How a launch ends. -/
inductive Ending where
  | complete | stopped | spliced
  deriving DecidableEq, Repr

/-- The fields of a DONE record (R95): a launch that has not started carries no HOLDOVER (DEDUCED,
log 14). -/
def doneFields (l : Lane) (a : Launch) (ending : Ending) : DoneFields where
  passes := l.passesDone
  stopped := decide (ending = .stopped)
  spliced := decide (ending = .spliced)
  holdover := l.holdoverSeen && decide (l.state ≠ .armed)
  lateness := a.lateness

/-- A lane whose ACTIVE launch has retired with the rest level given (items 1 to 3 of R86). -/
def Lane.retired (rest : RestLevel) (l : Lane) : Lane :=
  { l with
    splicePending := false, stopPending := false, waitSatisfied := false, waitSource := none
    stack := [], rest := resolveRest rest l.level
    queue := { l.queue with active := none } }

/-- The retirement of the ACTIVE launch, and the activation of the next (R86). -/
def retire (n : LaneId) (ending : Ending) (atBoundary : Bool) (s : State) : State × List Work :=
  let l := s.lane n
  match l.queue.active with
  | none => (s, [])
  | some a =>
    let s1 := s.setLane n (l.retired a.desc.rest)
    let s2 := postTerminal n a.desc (.done n a.desc.tag (doneFields l a ending)) s1
    match l.queue.pending with
    | [] => (s2.setLane n { s2.lane n with state := .idle, remaining := 0 }, [])
    | _ :: _ => activate n atBoundary s2

/-! ## Steps (R49 to R64) -/

/-- A lane whose wait or hold leaves the run: what a HOLD begun does (R52). -/
def Lane.beginHold (l : Lane) (level : StepLevel) (duration : BitVec 20) : Lane :=
  { l with state := .running, level := some level, remaining := duration, zeroRun := 0 }

/-- What a WAIT begun does at the lane, but for the zero-run count (R53, R56). -/
def Lane.beginWait (l : Lane) (source : WaitSource) (level : StepLevel) (strict : Bool)
    (timeout : BitVec 16) : Lane :=
  { l with
    state := .waiting, level := some level, waitSource := some source, waitStrict := strict
    remaining := timeout.setWidth 20, waitSatisfied := false }

/-- An END with an empty stack (R64, R85). -/
def endPass (n : LaneId) (s : State) : State × List Work :=
  let l := s.lane n
  match l.queue.active with
  | none => (s, [])
  | some a =>
    let done := satSucc l.passesDone
    let s1 := s.setLane n { l with passesDone := done }
    if a.desc.passes ≠ 0 ∧ done = a.desc.passes.setWidth 16 then retire n .complete true s1
    else if l.stopPending then retire n .stopped true s1
    else (s1, [.step n a.desc.entry])

/-- A legal record is one of the zero-duration steps for this lane (R51). -/
def zeroDuration (s : State) (n : LaneId) : StepRecord → Bool
  | .hold _ _ => false
  | .wait (.line _) _ _ _ => false
  | .wait (.group g) _ _ _ => completes s g n
  | .endPass | .loop _ | .next | .sub _ | .back | .link _ | .signal _ | .tune _ _ _ => true

/-- The execution of a record at address a, its zero-run count already taken (R49 item 5). -/
def executeStep (n : LaneId) (a : Addr) (r : StepRecord) (s : State) : State × List Work :=
  let l := s.lane n
  match r with
  | .hold level d => (s.setLane n (l.beginHold level d), [])
  | .wait (.line i) level strict t =>
    (s.setLane n { l.beginWait (.line i) level strict t with zeroRun := 0 }, [])
  | .wait (.group g) level strict t =>
    if completes s g n then
      arrive g n true (s.setLane n (l.beginWait (.group g) level strict t))
    else
      arrive g n true (s.setLane n { l.beginWait (.group g) level strict t with zeroRun := 0 })
  | .loop c =>
    if l.stack.length < 4 then
      (s.setLane n { l with stack := .loop (a + 1) c :: l.stack }, [.step n (a + 1)])
    else (faultLane .stackOverflow n s, [])
  | .next =>
    match l.stack with
    | .loop body k :: rest =>
      if k.toNat ≤ 1 then (s.setLane n { l with stack := rest }, [.step n (a + 1)])
      else (s.setLane n { l with stack := .loop body (k - 1) :: rest }, [.step n body])
    | _ => (faultLane .nestError n s, [])
  | .sub t =>
    if l.stack.length < 4 then
      (s.setLane n { l with stack := .sub (a + 1) :: l.stack }, [.step n t])
    else (faultLane .stackOverflow n s, [])
  | .back =>
    match l.stack with
    | .sub ret :: rest => (s.setLane n { l with stack := rest }, [.step n ret])
    | _ => (faultLane .nestError n s, [])
  | .link t => (s, [.step n t])
  | .signal v => (offerInfo (.mark n v a) s, [.step n (a + 1)])
  | .tune x h w => (setPendingPair x ⟨h, w⟩ s, [.step n (a + 1)])
  | .endPass => if l.stack = [] then endPass n s else (faultLane .nestError n s, [])

/-- The budget check of item 4 of R49, and the execution behind it (R51). -/
def budgetStep (n : LaneId) (a : Addr) (r : StepRecord) (s : State) : State × List Work :=
  if zeroDuration s n r then
    if 16 ≤ (s.lane n).zeroRun then (faultLane .runaway n s, [])
    else
      executeStep n a r (s.setLane n { s.lane n with zeroRun := (s.lane n).zeroRun + 1 })
  else executeStep n a r s

/-- A lane begins a step at address a: the five items of R49 in order. -/
def takeStep (n : LaneId) (a : Addr) (s : State) : State × List Work :=
  let s1 := s.setLane n ((s.lane n).beginStep a)
  match decodeStep (s.fetchWord n a) with
  | none => (faultLane .badStep n s1, [])
  | some r =>
    if (s.lane n).splicePending then retire n .spliced true s1
    else
      match r with
      | .wait (.group g) _ _ _ =>
        if LaneSet.has (s.group g).members n = false then (faultLane .notMember n s1, [])
        else if memberFaulted s g then (faultLane .barrierBroken n s1, [])
        else budgetStep n a r s1
      | _ => budgetStep n a r s1

/-! ## The run of steps in one event (R50, R57, R84) -/

/-- The lateness of an AT_TIME launch started now, saturating (R80). -/
def latenessAt (start now : Time) : BitVec 16 :=
  if 65535 < (now - start).toNat then 65535 else BitVec.ofNat 16 (now - start).toNat

/-- The ACTIVE slot as the launch starts: start met is cleared, and an AT_TIME launch sets its
lateness (R83, R84). -/
def Launch.started (a : Launch) (now : Time) : Launch :=
  match a.desc.start with
  | .atTime t => { a with startMet := false, lateness := latenessAt t now }
  | .immediate | .onGroup _ | .onTrigger _ => { a with startMet := false }

/-- A lane whose launch starts, with its ACTIVE slot as it stands then (R84). -/
def Lane.launched (a : Launch) (l : Lane) : Lane :=
  { l with
    stack := [], zeroRun := 0, passesDone := 0, holdoverSeen := false, level := none
    stepAddr := a.desc.entry
    queue := { l.queue with active := some a } }

/-- A launch starts (R84): its first step is begun at its entry address. -/
def startLaunch (n : LaneId) (s : State) : State × List Work :=
  let l := s.lane n
  match l.queue.active with
  | none => (s, [])
  | some a =>
    (s.setLane n (l.launched (a.started s.tb.time)), [.step n a.desc.entry])

/-- A RUNNING or WAITING lane notes the tick that has ended (R46). -/
def Lane.noteTick (handed : DividerSet) (l : Lane) : Lane :=
  if (l.state = .running ∨ l.state = .waiting) ∧ handed = .holdover then
    { l with holdoverSeen := true }
  else l

/-- A released lane takes its turn in a release at a boundary (R57, R82). Its own event for that
boundary may have come before: a host write between the two comes behind both for a lane that began
a step there (R19, `State.fetchWord`; log 17). -/
def stepReleased (n : LaneId) (s : State) : State × List Work :=
  let l := s.lane n
  match l.state with
  | .waiting =>
    let l1 := if l.boundaryTaken then l else l.noteTick s.tb.handedSet
    (s.setLane n { l1 with boundaryTaken := true, waitSource := none, waitSatisfied := false },
      [.step n (l.stepAddr + 1)])
  | .armed => (s.setLane n { l with boundaryTaken := true }, [.start n])
  | .idle | .running | .faulted => (s, [])

/-- One piece of work: what it does, and the work it leaves, which comes before any other. -/
def doWork (w : Work) (s : State) : State × List Work :=
  match w with
  | .step n a => takeStep n a s
  | .start n => startLaunch n s
  | .released n => stepReleased n s

/-- The run of work in one event, depth first (R50, R116), and the work left when the budget is
spent. -/
def runWork : Nat → List Work → State → State × List Work
  | _, [], s => (s, [])
  | 0, w :: ws, s => (s, w :: ws)
  | k + 1, w :: ws, s => runWork k ((doWork w s).2 ++ ws) (doWork w s).1

/-- More pieces of work than any one event holds (log 9). -/
def stepBudget : Nat := (2 ^ 250) ^ 25

/-! ## The lane's own event for a boundary (R46 to R48, R55, R83) -/

/-- A splice lands at a lane that leaves a wait or an armed start: it departs any group and its
launch retires SPLICED (R48, R83, R91). -/
def landSplice (n : LaneId) (s : State) : State × List Work :=
  retire n .spliced true (depart n s)

/-- The timeout of a WAIT expires (R55, R56, R119, R120). -/
def expireWait (n : LaneId) (s : State) : State × List Work :=
  let l := s.lane n
  let s1 := depart n (s.setLane n { l with waitSource := none, waitSatisfied := false })
  if l.waitStrict then (faultLane .waitTimeout n s1, [])
  else
    match l.waitSource with
    | some src =>
      (offerInfo (.waitTimeout n l.activeTag l.stepAddr src) s1, [.step n (l.stepAddr + 1)])
    | none => (s1, [.step n (l.stepAddr + 1)])

/-- An ARMED lane's start is due at this boundary (items 2 and 3 of R83). -/
def Lane.startDue (l : Lane) (now : Time) : Bool :=
  match l.queue.active with
  | none => false
  | some a =>
    a.startMet ||
      match a.desc.start with
      | .atTime t => decide (now = t)
      | .immediate | .onGroup _ | .onTrigger _ => false

/-- An ARMED lane at a boundary (R83). -/
def armedBoundary (n : LaneId) (s : State) : State × List Work :=
  if (s.lane n).splicePending then landSplice n s
  else if (s.lane n).startDue s.tb.time then (s, [.start n])
  else (s, [])

/-- A RUNNING lane at a boundary (R47, R52). -/
def runningBoundary (n : LaneId) (s : State) : State × List Work :=
  let l := s.lane n
  (s.setLane n { l with remaining := l.remaining - 1 },
    if l.remaining = 1 then [.step n (l.stepAddr + 1)] else [])

/-- A WAITING lane at a boundary (R48). -/
def waitingBoundary (n : LaneId) (s : State) : State × List Work :=
  let l := s.lane n
  if l.splicePending then landSplice n s
  else if l.waitSatisfied then
    (s.setLane n { l with waitSatisfied := false, waitSource := none }, [.step n (l.stepAddr + 1)])
  else if l.remaining = 0 then (s, [])
  else if l.remaining = 1 then expireWait n (s.setLane n { l with remaining := 0 })
  else (s.setLane n { l with remaining := l.remaining - 1 }, [])

/-- A lane that takes its own event for a boundary: the note and the flag (R46). -/
def Lane.takeBoundary (handed : DividerSet) (l : Lane) : Lane :=
  { l.noteTick handed with boundaryTaken := true, ownDue := false, sinceBoundary := false }

/-- The lane acts at the boundary after the one it takes: it is ARMED or WAITING, and what it is to
act on came behind that one (R79, R80, R117; log 16). -/
def Lane.actsNext (l : Lane) : Bool :=
  l.sinceBoundary && decide (l.state = .armed ∨ l.state = .waiting)

/-- The first of what a lane does in its own event (R46): the flag, the note, and the action its
state calls for. -/
def ownActions (n : LaneId) (s : State) : State × List Work :=
  let l := s.lane n
  if l.boundaryTaken then (s.setLane n { l with ownDue := false, sinceBoundary := false }, [])
  else
    let s1 := s.setLane n (l.takeBoundary s.tb.handedSet)
    if l.actsNext then (s1, [])
    else
      match l.state with
      | .armed => armedBoundary n s1
      | .running => runningBoundary n s1
      | .waiting => waitingBoundary n s1
      | .idle | .faulted => (s1, [])

/-- The outcome of an event: the next state, or the end of the budget (log 9). -/
def outcomeOf (old : State) (r : State × List Work) : Host.Outcome State Fault Refusal :=
  if r.2 = [] then .next (settle old r.1) else .fault .stepBudget

/-- A lane's own event for a boundary, whole (R46 to R50). -/
def laneEvent (n : LaneId) (s : State) : Host.Outcome State Fault Refusal :=
  outcomeOf s (runWork stepBudget (ownActions n s).2 (ownActions n s).1)

/-- The lane's own event is the end of its HOLD (R52). -/
def Lane.holdEnds (l : Lane) : Bool :=
  !l.boundaryTaken && decide (l.state = .running ∧ l.remaining = 1)

/-- The lane's own event is the expiry of its WAIT (R48 item 3, R55). -/
def Lane.waitExpires (l : Lane) : Bool :=
  !l.boundaryTaken && !l.actsNext && !l.splicePending && !l.waitSatisfied
    && decide (l.state = .waiting ∧ l.remaining = 1)

/-- The lane's own event ends a satisfied WAIT (R48 item 2). -/
def Lane.waitEnds (l : Lane) : Bool :=
  !l.boundaryTaken && !l.actsNext && !l.splicePending && l.waitSatisfied
    && decide (l.state = .waiting)

/-- The lane's own event starts its launch (R83 items 2 and 3). -/
def Lane.starts (l : Lane) (now : Time) : Bool :=
  !l.boundaryTaken && !l.actsNext && !l.splicePending && decide (l.state = .armed)
    && l.startDue now

/-- The lane's own event brings a pending splice to a step start (R91). -/
def Lane.spliceLands (l : Lane) : Bool :=
  !l.boundaryTaken && !l.actsNext && l.splicePending
    && decide (l.state = .armed ∨ l.state = .waiting ∨ (l.state = .running ∧ l.remaining = 1))

end Sys2Proof.Machine
end

