-- ==== Sys2Proof/Machine/Ticks.lean ====
section
/-! DEFINITION. The Timebase Unit: boundaries, locks, losses, and its commands (Chapter 2). -/

namespace Sys2Proof.Machine

/-- What the next tick latches, from the state in force and the sets as stored (R22, R23). -/
def Timebase.latch (t : Timebase) : Tick :=
  match t.state with
  | .external => ⟨.refin, .external, t.divExt, 0⟩
  | .internal | .qualifying => ⟨.iosc, .internal, t.divInt, 0⟩
  | .holdover | .requalifying => ⟨.iosc, .holdover, t.divHold, 0⟩

/-- An internal switch, if one is requested (R25 item 3, R29). R29 and R32 say that the monitor
stops and give no value the window timer then holds; the model sets it to 0 (DESIGN CHOICE, log 15).
-/
def Timebase.switched (t : Timebase) : Timebase :=
  if t.switchReq then
    { t with state := .internal, switchReq := false, window := 0, qual := 0 }
  else t

/-- The TBU's own part of a boundary (R25). -/
def Timebase.boundary (t : Timebase) : Timebase :=
  let t1 := { t with handedSet := t.tick.set, time := t.time + 1 }.switched
  { t1 with tick := t1.latch }

/-- A tick boundary: the TBU's part, and the boundary handed to the six lanes (R25, R46). -/
def tickEnds (s : State) : State :=
  { s with
    tb := s.tb.boundary
    lanes := PerLane.build fun n =>
      { s.lane n with
        boundaryTaken := false, ownDue := true, sinceBoundary := false, sight := none } }

/-- The phase: whole prescaled base periods of the tick in progress (R24). -/
def Timebase.phase (t : Timebase) : BitVec 8 :=
  BitVec.ofNat 8 (min (t.tick.count / 2 ^ t.tick.div.m.toNat) (t.tick.div.divisor - 1))

/-- Completion of qualification (R33, R34). -/
def lockNow (s : State) : State :=
  recordTimebase .external false true
    { s with tb := { s.tb with state := .external, qual := 4096, window := 0 } }

/-- A REFIN edge at the reference monitor (R32, R33): the edge that brings the count to 4096 is the
lock. -/
def monitorEdge (s : State) : State :=
  match s.tb.state with
  | .qualifying | .requalifying =>
    if 4096 ≤ s.tb.qual + 1 then lockNow s
    else { s with tb := { s.tb with qual := s.tb.qual + 1, window := 0 } }
  | .external => { s with tb := { s.tb with window := 0 } }
  | .internal | .holdover => s

/-- A REFIN edge at the tick in progress (R21, R23): the edge that completes a REFIN tick is its
boundary. The tick counted is the one in progress before the edge. -/
def tickEdge (s : State) : State :=
  match s.tb.tick.source, s.tb.state with
  | .refin, .external =>
    if s.tb.tick.div.total ≤ s.tb.tick.count + 1 then tickEnds s
    else { s with tb := { s.tb with tick := { s.tb.tick with count := s.tb.tick.count + 1 } } }
  | _, _ => s

/-- The lanes a loss in EXTERNAL faults (R36). -/
def lossFaults (s : State) : List LaneId :=
  LaneId.all.filter fun n =>
    decide ((s.lane n).cfg.policy = .fault)
      && decide ((s.lane n).state = .armed ∨ (s.lane n).state = .running
        ∨ (s.lane n).state = .waiting)

/-- The faults of a loss: REF_LOST for the lanes of R36, BARRIER_BROKEN for the lanes of the groups
they break, all in ascending lane number (R36, R123). -/
def faultForLoss (s : State) : State :=
  let lost := lossFaults s
  let broken := breakBarriers lost (lost.foldl (fun t n => depart n t) s)
  LaneId.all.foldl
    (fun t n =>
      if n ∈ lost then enterFault .refLost n t
      else if n ∈ broken.2 then enterFault .barrierBroken n t
      else t)
    broken.1

/-- The state after a loss in EXTERNAL (R31, R35). -/
def Timebase.afterLoss (t : Timebase) : TbState :=
  if t.autoRearm then .requalifying else .holdover

/-- A loss detected in EXTERNAL (R35). -/
def loseReference (s : State) : State :=
  let st := s.tb.afterLoss
  let s1 : State :=
    { s with
      tb := { s.tb with
        state := st, qual := 0, window := 0
        tick := ⟨.iosc, .holdover, s.tb.divHold, 0⟩ } }
  recordTimebase st true false (faultForLoss s1)

/-- A loss event at the TBU, by state (R32, R33, R35). -/
def detectLoss (s : State) : State :=
  match s.tb.state with
  | .qualifying | .requalifying => { s with tb := { s.tb with qual := 0, window := 0 } }
  | .external => loseReference s
  | .internal | .holdover => s

/-- TB_USE_EXTERNAL (R28). -/
def useExternal (s : State) : State :=
  let s1 := s.report .ok Reg.globalCmd.index
  match s.tb.state with
  | .internal => { s1 with tb := { s.tb with state := .qualifying, qual := 0, window := 0 } }
  | .qualifying | .external | .holdover | .requalifying => s1

/-- TB_USE_INTERNAL (R29). -/
def useInternal (s : State) : State :=
  let s1 := s.report .ok Reg.globalCmd.index
  match s.tb.state with
  | .internal => s1
  | .qualifying | .external | .holdover | .requalifying =>
    { s1 with tb := { s.tb with switchReq := true } }

/-- TB_REARM (R30). -/
def rearm (s : State) : State :=
  match s.tb.state with
  | .holdover =>
    { s.report .ok Reg.globalCmd.index with
      tb := { s.tb with state := .requalifying, qual := 0, window := 0 } }
  | .internal | .qualifying | .external | .requalifying =>
    s.report .notInHoldover Reg.globalCmd.index

end Sys2Proof.Machine
end

