-- ==== Sys2Proof/Machine/Inputs.lean ====
section
/-! DEFINITION. The Input Unit: samples, acceptances, triggers and captures (Chapter 7). -/

namespace Sys2Proof.Machine

/-- An edge set holds an edge (R128). -/
def EdgeSet.holds : EdgeSet → Edge → Bool
  | .rise, .rise | .fall, .fall | .both, _ => true
  | _, _ => false

/-- What a trigger of line i does to a lane (R54, R81, R132). -/
def Lane.trigger (i : LineId) (l : Lane) : Lane :=
  match l.state, l.queue.active with
  | .waiting, _ =>
    if l.waitSource = some (.line i) then { l with waitSatisfied := true } else l
  | .armed, some a =>
    if a.desc.start = .onTrigger i then
      { l with queue := { l.queue with active := some { a with startMet := true } } }
    else l
  | _, _ => l

/-- A trigger reaches every lane in one event (R132). -/
def deliverTrigger (i : LineId) (s : State) : State :=
  { s with lanes := PerLane.build fun n => (s.lane n).trigger i }

/-- The snapshot of a tag lane (R134). -/
def State.snapshot (s : State) (n : LaneId) : Snapshot :=
  ⟨n, (s.lane n).state, (s.lane n).stepAddr, (s.lane n).activeTag⟩

/-- The capture record of an edge on line i (R136, R137); the queue fills in its gap field. -/
def State.captureOf (s : State) (i : LineId) (e : Edge) : CaptureRecord where
  line := i
  edge := e
  time := s.tb.time
  phase := s.tb.phase
  holdover := decide (s.tb.tick.set = .holdover)
  gap := 0
  snapshot := (s.input i).tagLane.map s.snapshot

/-- An accepted edge as a trigger and as a capture (R128 items 2 and 3). -/
def acceptEdge (i : LineId) (e : Edge) (s : State) : State :=
  let s1 := if (s.input i).trigger.holds e then deliverTrigger i s else s
  if (s.input i).capture.holds e then offerCapture (s.captureOf i e) s1 else s1

/-- The edge that reaches a level (R128). -/
def edgeTo : Level → Edge
  | .high => .rise
  | .low => .fall

/-- The run count a sample leaves before acceptance, for a line with this filter state (R127). -/
def InputLine.runAfter (l : InputLine) : Nat :=
  match l.accepted with
  | some v => if l.pin = v then 0 else l.runCount + 1
  | none => if l.pin = l.runLevel ∨ l.runCount = 0 then l.runCount + 1 else 1

/-- A sample at line i (R127 to R129). -/
def takeSample (i : LineId) (s : State) : State :=
  let l := s.input i
  let k := l.runAfter
  let l0 := { l with sampleCount := 0 }
  match l.accepted with
  | some v =>
    if l.pin = v then s.setInput i { l0 with runCount := 0 }
    else if l.f ≤ k then
      acceptEdge i (edgeTo l.pin)
        (s.setInput i { l0 with accepted := some l.pin, runLevel := l.pin, runCount := 0 })
    else s.setInput i { l0 with runLevel := l.pin, runCount := k }
  | none =>
    if l.f ≤ k then
      s.setInput i { l0 with accepted := some l.pin, runLevel := l.pin, runCount := 0 }
    else s.setInput i { l0 with runLevel := l.pin, runCount := k }

/-- An INn_CFG write (R131, R176). -/
def writeInCfg (i : LineId) (w : Word) (s : State) : State :=
  let l := s.input i
  let f := w.extractLsb' 0 3
  let d := w.extractLsb' 4 3
  let l1 : InputLine :=
    { l with
      filter := f, divider := d
      trigger := edgeSetOf (w.extractLsb' 8 2)
      capture := edgeSetOf (w.extractLsb' 10 2)
      tagCode := w.extractLsb' 12 3 }
  if f = l.filter ∧ d = l.divider then s.setInput i l1
  else s.setInput i { l1 with sampleCount := 0, runCount := 0 }

end Sys2Proof.Machine
end

