-- ==== Sys2Proof/Machine/Commands.lean ====
section
/-! DEFINITION. The lane commands, the resets and the register writes as shared operations
(Chapters 3 to 6, 9 and 10). -/

namespace Sys2Proof.Machine

/-! ## Lane commands (R76, R77, R89, R90, R93, R94) -/

/-- The checks of SUBMIT behind the lane number, in the order of R76: a refusal, or the
descriptor. -/
def checkSubmit (n : LaneId) (s : State) : Except Result Descriptor :=
  if (s.lane n).state = .faulted then .error .laneFaulted
  else if 4 ≤ (s.lane n).queue.slots then .error .queueFull
  else
    match s.staging.start, restLevelOf s.staging.restCode with
    | some (.onGroup g), some rest =>
      if LaneSet.has (s.group g).members n then
        .ok ⟨s.staging.entry, .onGroup g, s.staging.passes, rest, s.staging.tag⟩
      else .error .badField
    | some start, some rest =>
      .ok ⟨s.staging.entry, start, s.staging.passes, rest, s.staging.tag⟩
    | _, _ => .error .badField

/-- SUBMIT (R76, R77). -/
def submitTo (n : LaneId) (s : State) : State :=
  match checkSubmit n s with
  | .error r => s.report r Reg.laneCmd.index
  | .ok d =>
    let l := s.lane n
    let s1 := (s.setLane n
      { l with queue := { l.queue with pending := l.queue.pending ++ [d] } }).report .ok
        Reg.laneCmd.index
    if l.state = .idle then settle s (activate n false s1).1 else s1

/-- STOP_AT_END (R89). -/
def stopAtEnd (n : LaneId) (s : State) : State :=
  let l := s.lane n
  match l.state with
  | .idle | .faulted => s.report .nothingActive Reg.laneCmd.index
  | .running | .waiting =>
    (s.setLane n { l with stopPending := true }).report .ok Reg.laneCmd.index
  | .armed =>
    settle s ((retire n .stopped false (depart n s)).1.report .ok Reg.laneCmd.index)

/-- SPLICE (R90). -/
def spliceLane (n : LaneId) (s : State) : State :=
  let l := s.lane n
  match l.queue.active, l.queue.pending with
  | none, _ => s.report .nothingActive Reg.laneCmd.index
  | some _, [] => s.report .nothingToSplice Reg.laneCmd.index
  | some _, d :: _ =>
    if d.start = .immediate then
      (s.setLane n { l with splicePending := true }).report .ok Reg.laneCmd.index
    else s.report .badSplice Reg.laneCmd.index

/-- The PENDING slots of a lane are flushed, oldest first (R93 item 3). -/
def flushPending (n : LaneId) (ds : List Descriptor) (s : State) : State :=
  ds.foldl (fun t d => postTerminal n d (.aborted n d.tag 0 .flushed d.entry) t) s

/-- A lane's fields after ABORT (items 2, 3, 5 and 6 of R93, and R110). -/
def Lane.aborted (l : Lane) : Lane :=
  { l with
    state := .idle, rest := .cfgIdle, cause := none, splicePending := false
    stopPending := false, waitSatisfied := false, waitSource := none, stack := []
    remaining := 0, zeroRun := 0, gate := .closed, trail := none
    queue := { l.queue with active := none, pending := [] } }

/-- ABORT (R93). -/
def abortLane (n : LaneId) (s : State) : State :=
  let l := s.lane n
  let s1 := (depart n s).setLane n l.aborted
  let s2 :=
    match l.queue.active with
    | none => s1
    | some a =>
      postTerminal n a.desc (.aborted n a.desc.tag l.passesDone .hostAbort l.stepAddr) s1
  settle s ((flushPending n l.queue.pending s2).report .ok Reg.laneCmd.index)

/-- CLEAR_FAULT (R94). -/
def clearFaultOf (n : LaneId) (s : State) : State :=
  let l := s.lane n
  if l.state = .faulted then
    let s1 := (s.setLane n { l with state := .idle, cause := none, rest := .cfgIdle }).report .ok
      Reg.laneCmd.index
    settle s (activate n false s1).1
  else s.report .notFaulted Reg.laneCmd.index

/-- A LANE_CMD write whose op code is defined: INIT and the lane number are judged first (R4,
R169). -/
def laneCommand (op : LaneId → State → State) (lane : BitVec 3) (s : State) : State :=
  if s.initBusy then s.report .initBusy Reg.laneCmd.index
  else
    match LaneId.ofCode lane with
    | none => s.report .badField Reg.laneCmd.index
    | some n => op n s

/-- A GLOBAL_CMD write whose op code is defined: INIT is judged first (R4, R168). -/
def globalCommand (op : State → State) (s : State) : State :=
  if s.initBusy then s.report .initBusy Reg.globalCmd.index else op s

/-- CAPQ_FLUSH (R144). -/
def flushCapture (s : State) : State :=
  { s with capq := { s.capq with records := [], gap := 0 } }.report .ok Reg.globalCmd.index

/-! ## Resets (R171, R172; R2, R41, R72, R98, R111, R125, R135, R145, R161) -/

/-- SOFT_RESET at every block. A boundary handed on stays so, and a lane's own event for it that is
still due yet comes: the manual does not say (R26, R72, R117; DESIGN CHOICE, log 19). -/
def softResetAll (s : State) : State :=
  { s with
    lanes := PerLane.build fun n => { resetLane (s.lane n).cfg with ownDue := (s.lane n).ownDue }
    groups := PerGroup.build fun g => { s.group g with arrived := 0 }
    tb := { s.tb with record := none }
    staging := resetStaging
    capq := resetCaptureQueue s.capq.threshold
    evq := resetEventQueue
    ints := resetInterrupts s.ints.enable
    port := { s.port with cmdResult := ⟨.ok, Reg.globalCmd.index⟩, portErr := ⟨.none, 0⟩ } }

/-- What POR and an RSTN reset do alike: every block but the pattern memory and INIT. The levels
outside drives on the pins are kept. -/
def hardReset (s : State) : State :=
  { s with
    ptr := ⟨0, false⟩
    tb := resetTimebase
    lanes := PerLane.build fun _ => resetLane resetLaneCfg
    staging := resetStaging
    carriers := PerCarrier.build fun _ => resetCarrier
    groups := PerGroup.build fun _ => resetGroup
    inputs := PerLine.build fun i => resetInput (s.input i).pin
    capq := resetCaptureQueue 1
    evq := resetEventQueue
    ints := resetInterrupts 0
    port := ⟨⟨.ok, 0⟩, ⟨.none, 0⟩, none, s.port.csnLow, s.port.rstnLow, none⟩ }

/-! ## Register writes -/

/-- LANEn_CFG (R43, R109): a guard set to off ends a trail. -/
def writeLaneCfg (n : LaneId) (w : Word) (s : State) : State :=
  let l := s.lane n
  match l.state with
  | .armed | .running | .waiting => s.report .laneBusy (Reg.laneCfg n).index
  | .idle | .faulted =>
    match laneCfgOf w with
    | none => s.report .badField (Reg.laneCfg n).index
    | some c =>
      (s.setLane n { l with cfg := c, trail := if c.guard then l.trail else none }).report .ok
        (Reg.laneCfg n).index

/-- GROUPg_MEMBERS (R113). -/
def writeMembers (g : GroupId) (w : Word) (s : State) : State :=
  if (s.group g).arrived = 0 then
    (s.setGroup g { s.group g with members := w.extractLsb' 0 6 }).report .ok
      (Reg.groupMembers g).index
  else s.report .groupBusy (Reg.groupMembers g).index

/-- CARx_CTRL (R100, R101, R105). -/
def writeCarCtrl (x : CarrierId) (w : Word) (s : State) : State :=
  let c := s.carrier x
  let p := w.extractLsb' 4 4
  let on := w.getLsbD 0
  if c.enable then
    if p = c.prescale then
      (if on then s else disableCarrier x s).report .ok (Reg.carCtrl x).index
    else s.report .carrierBusy (Reg.carCtrl x).index
  else
    (if on then enableCarrier x p s else s.setCarrier x { c with prescale := p }).report .ok
      (Reg.carCtrl x).index

/-- CARx_WIDTH (R103). -/
def writeCarWidth (x : CarrierId) (w : Word) (s : State) : State :=
  let h := w.extractLsb' 8 8
  let l := w.extractLsb' 0 8
  if h = 0 ∨ l = 0 then s.report .badField (Reg.carWidth x).index
  else (setPendingPair x ⟨h, l⟩ s).report .ok (Reg.carWidth x).index

/-- INT_STATUS: each sticky cause written with 1 is cleared (R158). -/
def writeIntStatus (w : Word) (s : State) : State :=
  { s with
    ints := { s.ints with
      evqDrop := s.ints.evqDrop && !w.getLsbD 1
      capqGap := s.ints.capqGap && !w.getLsbD 3
      portError := s.ints.portError && !w.getLsbD 4 } }

/-- INT_ENABLE (R159). -/
def writeIntEnable (w : Word) (s : State) : State :=
  { s with ints := { s.ints with enable := w.extractLsb' 0 5 } }

/-- TB_TRIM (R20). -/
def writeTrim (w : Word) (s : State) : State :=
  { s with tb := { s.tb with trim := w.extractLsb' 0 5 } }

/-- CAPQ_STATUS: the threshold field (R142). -/
def writeThreshold (w : Word) (s : State) : State :=
  { s with capq := { s.capq with threshold := w.extractLsb' 8 5 } }

/-- A divider set (R22). -/
def writeDivider (set : DividerSet) (w : Word) (s : State) : State :=
  match set with
  | .internal => { s with tb := { s.tb with divInt := dividerOf w } }
  | .external => { s with tb := { s.tb with divExt := dividerOf w } }
  | .holdover => { s with tb := { s.tb with divHold := dividerOf w } }

/-- A GLOBAL_CMD write, whole (R168). -/
def writeGlobalCmd (w : Word) (s : State) : State :=
  if s.initBusy then s.report .initBusy Reg.globalCmd.index
  else
    match (opCode w).toNat with
    | 1 => softResetAll s
    | 2 => useInternal s
    | 3 => useExternal s
    | 4 => rearm s
    | 5 => flushCapture s
    | _ => s.report .badCommand Reg.globalCmd.index

/-- A LANE_CMD write by its op code and lane number, whole (R169). -/
def writeLaneCmd (op : BitVec 4) (lane : BitVec 3) (s : State) : State :=
  if s.initBusy then s.report .initBusy Reg.laneCmd.index
  else
    match op.toNat with
    | 1 => laneCommand submitTo lane s
    | 2 => laneCommand stopAtEnd lane s
    | 3 => laneCommand spliceLane lane s
    | 4 => laneCommand abortLane lane s
    | 5 => laneCommand clearFaultOf lane s
    | _ => s.report .badCommand Reg.laneCmd.index

/-- What a completed data word does at a register (R165). -/
def writeReg (r : Reg) (w : Word) (s : State) : State :=
  match r with
  | .globalCmd => writeGlobalCmd w s
  | .laneCmd => writeLaneCmd (opCode w) (laneNumber w) s
  | .intStatus => writeIntStatus w s
  | .intEnable => writeIntEnable w s
  | .tbCtrl => { s with tb := { s.tb with autoRearm := w.getLsbD 0 } }
  | .tbDiv set => writeDivider set w s
  | .tbTrim => writeTrim w s
  | .pmemPtr => { s with ptr := pmemPtrOf w }
  | .pmemData => writePmem w s
  | .lqDesc0 => { s with staging := { s.staging with desc0 := w } }
  | .lqDesc1 => { s with staging := { s.staging with desc1 := w } }
  | .lqTime => { s with staging := { s.staging with time := w } }
  | .groupMembers g => writeMembers g w s
  | .carCtrl x => writeCarCtrl x w s
  | .carWidth x => writeCarWidth x w s
  | .inCfg i => writeInCfg i w s
  | .capqStatus => writeThreshold w s
  | .capqPop => popCapture s
  | .evqPop => popEvent s
  | .laneCfg n => writeLaneCfg n w s
  | .id | .hostStatus | .cmdResult | .portErr | .tbStatus | .time | .groupStatus | .inLevel
  | .capqHead0 | .capqHead1 | .capqHead2
  | .evqHead0 | .evqHead1 | .evqHead2 | .evqHead3 | .evqStatus
  | .laneStatus _ | .laneStep _ | .lanePass _ => s.portError .readOnly r.index

/-- A completed data word at an index (R165). -/
def writeAt (i : Index) (w : Word) (s : State) : State :=
  match regAt i with
  | some r => writeReg r w s
  | none => s.portError .badIndex i

end Sys2Proof.Machine
end

