-- ==== Sys2Proof/Machine/Readout.lean ====
section
/-! DEFINITION. What a read of each register returns (R165, R173 to R180), and the read access at
an index. -/

namespace Sys2Proof.Machine

/-- TB_STATUS (R40, R175). -/
def State.tbStatusWord (s : State) : Word :=
  0#10 ++ dividerSetCode s.tb.tick.set ++ s.tb.tick.source.code
    ++ BitVec.ofBool s.tb.record.isSome ++ BitVec.ofBool s.tb.switchReq
    ++ BitVec.ofNat 13 s.tb.qual ++ 0#1 ++ s.tb.state.code

/-- A divider set (R22, R175). -/
def Divider.word (d : Divider) : Word := 0#22 ++ d.m ++ d.n

/-- The divider set a register shows. -/
def Timebase.divider (t : Timebase) : DividerSet → Divider
  | .internal => t.divInt
  | .external => t.divExt
  | .holdover => t.divHold

/-- LANEn_CFG (R43, R176). -/
def LaneCfg.word (c : LaneCfg) : Word :=
  0#26 ++ BitVec.ofBool c.guard ++ BitVec.ofBool (decide (c.policy = .fault)) ++ c.fault.code
    ++ c.idle.code

/-- The code of a fault cause field, 0 for NONE (R176, R179). -/
def causeCode : Option FaultCause → BitVec 4
  | none => 0
  | some c => c.code

/-- LANEn_STATUS (R70, R176). -/
def State.laneStatusWord (s : State) (n : LaneId) : Word :=
  let l := s.lane n
  0#5 ++ BitVec.ofBool l.holdoverSeen ++ BitVec.ofBool (LaneSet.has (s.group .g1).arrived n)
    ++ BitVec.ofBool (LaneSet.has (s.group .g0).arrived n) ++ 0#1
    ++ BitVec.ofNat 3 l.stack.length ++ causeCode l.cause ++ 0#2
    ++ BitVec.ofBool l.stopPending ++ BitVec.ofBool l.splicePending ++ 0#1
    ++ BitVec.ofNat 3 l.queue.awaiting.length ++ BitVec.ofBool l.queue.active.isSome
    ++ BitVec.ofNat 3 l.queue.pending.length ++ 0#1 ++ l.state.code

/-- CARx_CTRL (R100, R176). -/
def Carrier.ctrlWord (c : Carrier) : Word :=
  0#23 ++ levelBit c.phase ++ c.prescale ++ 0#3 ++ BitVec.ofBool c.enable

/-- CARx_WIDTH: the pair in use and the pending pair, 0 and 0 when absent (R103, R176). -/
def Carrier.widthWord (c : Carrier) : Word :=
  let p := c.pair.getD ⟨0, 0⟩
  c.inUse.high ++ c.inUse.low ++ p.high ++ p.low

/-- INn_CFG (R131, R176). -/
def InputLine.cfgWord (l : InputLine) : Word :=
  0#17 ++ l.tagCode ++ l.capture.code ++ l.trigger.code ++ 0#1 ++ l.divider ++ 0#1 ++ l.filter

/-- A line's level bit of IN_LEVEL, LOW while UNSETTLED (R130). -/
def InputLine.levelBit (l : InputLine) : BitVec 1 :=
  BitVec.ofBool (decide (l.accepted = some .high))

/-- IN_LEVEL (R130, R176). -/
def State.inLevelWord (s : State) : Word :=
  0#24 ++ BitVec.ofBool (s.input .in3).accepted.isSome
    ++ BitVec.ofBool (s.input .in2).accepted.isSome
    ++ BitVec.ofBool (s.input .in1).accepted.isSome
    ++ BitVec.ofBool (s.input .in0).accepted.isSome
    ++ (s.input .in3).levelBit ++ (s.input .in2).levelBit ++ (s.input .in1).levelBit
    ++ (s.input .in0).levelBit

/-- GROUP_STATUS (R114, R176). -/
def State.groupStatusWord (s : State) : Word :=
  (s.group .g1).count.setWidth 8 ++ (s.group .g0).count.setWidth 8 ++ 0#2 ++ (s.group .g1).arrived
    ++ 0#2 ++ (s.group .g0).arrived

/-- CAPQ_STATUS (R142, R176). -/
def State.capqStatusWord (s : State) : Word :=
  0#8 ++ s.capq.gap ++ 0#3 ++ s.capq.threshold ++ 0#2 ++ BitVec.ofNat 6 s.capq.records.length

/-- EVQ_STATUS (R157, R176). -/
def State.evqStatusWord (s : State) : Word :=
  0#8 ++ s.evq.dropped ++ 0#3 ++ BitVec.ofNat 5 s.evq.deferral.length ++ 0#2
    ++ BitVec.ofNat 6 s.evq.placed.length

/-- A word of the head event record, 0 when the queue is empty (R155). -/
def State.eventHead (s : State) (word : EventRecord → Word) : Word :=
  match s.evq.placed with
  | [] => 0
  | r :: _ => word r

/-- A word of the head capture record, 0 when the queue is empty (R140). -/
def State.captureHead (s : State) (word : CaptureRecord → Word) : Word :=
  match s.capq.records with
  | [] => 0
  | r :: _ => word r

/-- What a read of a register returns (R165). Write-only registers read 0, so does PMEM_DATA during
INIT (R4), and so does a bit that is no field of R175 or R176 (R165). -/
def readReg (r : Reg) (s : State) : Word :=
  match r with
  | .id => 0x06140100
  | .hostStatus => s.statusByte.setWidth 32
  | .globalCmd | .laneCmd | .capqPop | .evqPop => 0
  | .cmdResult => 0#17 ++ s.port.cmdResult.index ++ 0#4 ++ s.port.cmdResult.code.code
  | .intStatus => s.causes.setWidth 32
  | .intEnable => s.ints.enable.setWidth 32
  | .portErr => 0#17 ++ s.port.portErr.index ++ 0#5 ++ s.port.portErr.cause.code
  | .tbCtrl => 0#31 ++ BitVec.ofBool s.tb.autoRearm
  | .tbStatus => s.tbStatusWord
  | .tbDiv set => (s.tb.divider set).word
  | .tbTrim => s.tb.trim.setWidth 32
  | .time => s.tb.time
  | .pmemPtr => BitVec.ofBool s.ptr.autoInc ++ 0#19 ++ s.ptr.addr
  | .pmemData => if s.initBusy then 0 else s.pmem.read s.ptr.addr
  | .lqDesc0 => s.staging.desc0
  | .lqDesc1 => s.staging.desc1
  | .lqTime => s.staging.time
  | .groupMembers g => (s.group g).members.setWidth 32
  | .groupStatus => s.groupStatusWord
  | .carCtrl x => (s.carrier x).ctrlWord
  | .carWidth x => (s.carrier x).widthWord
  | .inCfg i => (s.input i).cfgWord
  | .inLevel => s.inLevelWord
  | .capqHead0 => s.captureHead CaptureRecord.word0
  | .capqHead1 => s.captureHead CaptureRecord.time
  | .capqHead2 => s.captureHead CaptureRecord.word2
  | .capqStatus => s.capqStatusWord
  | .evqHead0 => s.eventHead EventRecord.word0
  | .evqHead1 => s.eventHead EventRecord.time
  | .evqHead2 => s.eventHead EventRecord.word2
  | .evqHead3 => s.eventHead EventRecord.word3
  | .evqStatus => s.evqStatusWord
  | .laneCfg n => (s.lane n).cfg.word
  | .laneStatus n => s.laneStatusWord n
  | .laneStep n => (s.lane n).stepAddr ++ (s.lane n).remaining
  | .lanePass n => 0#8 ++ (s.lane n).activeTag ++ (s.lane n).passesDone

/-- A read access at an index: the word shifted out, and the port error or the pointer advance it
makes (R4, R8, R165). -/
def readAt (i : Index) (s : State) : State :=
  match regAt i with
  | none =>
    let s1 := s.portError .badIndex i
    { s1 with port := { s1.port with lastRead := some 0 } }
  | some .pmemData => readPmem s
  | some r => { s with port := { s.port with lastRead := some (readReg r s) } }

end Sys2Proof.Machine
end

