-- ==== Sys2Proof/Machine/Clock.lean ====
section
/-! DEFINITION. One period of IOSC: what a step does on an empty queue (logs 2 and 3). Every count
that runs from IOSC advances, and the events that fall due are put into the queue. -/

namespace Sys2Proof.Machine

/-- The width of the phase in progress, in carrier clocks (R102). -/
def Carrier.width (c : Carrier) : Nat :=
  match c.phase with
  | .high => c.inUse.high.toNat
  | .low => c.inUse.low.toNat

/-- The phase in progress ends with this IOSC period (R99, R102). -/
def Carrier.phaseDue (c : Carrier) : Bool :=
  c.enable && decide (c.p ≤ c.sub + 1) && decide (c.width ≤ c.count + 1)

/-- The event at the end of the phase in progress (R102). -/
def Carrier.phaseEvent (x : CarrierId) (c : Carrier) : Instr :=
  match c.phase with
  | .high => .highPhaseEnd x
  | .low => .periodEnd x

/-- A generator over one IOSC period in which no phase ends (R99). -/
def Carrier.tick (c : Carrier) : Carrier :=
  if c.enable = false ∨ c.phaseDue = true then c
  else if c.p ≤ c.sub + 1 then { c with sub := 0, count := c.count + 1 }
  else { c with sub := c.sub + 1 }

/-- A sample falls due with this IOSC period (R127). -/
def InputLine.sampleDue (l : InputLine) : Bool :=
  decide (2 ^ l.divider.toNat ≤ l.sampleCount + 1)

/-- A line over one IOSC period in which no sample falls due (R127). -/
def InputLine.tick (l : InputLine) : InputLine :=
  if l.sampleDue then l else { l with sampleCount := l.sampleCount + 1 }

/-- The tick in progress ends with this IOSC period (R23). -/
def Timebase.tickDue (t : Timebase) : Bool :=
  decide (t.tick.source = .iosc) && decide (t.tick.div.total ≤ t.tick.count + 1)

/-- The window expires with this IOSC period (R32). -/
def Timebase.lossDue (t : Timebase) : Bool :=
  t.state.monitored && decide (256 ≤ t.window + 1)

/-- The TBU over one IOSC period, but for the events due (R23, R32). -/
def Timebase.periodPasses (t : Timebase) : Timebase :=
  { t with
    tick :=
      if t.tick.source = .iosc ∧ t.tickDue = false then
        { t.tick with count := t.tick.count + 1 }
      else t.tick
    window := if t.state.monitored = true ∧ t.lossDue = false then t.window + 1 else t.window }

/-- INIT over one IOSC period: the start-up interval is 224 periods, and each period after it
clears an entry (R3). -/
def initPasses (i : Option Nat) : Option Nat :=
  i.map fun k => if k < 224 then k + 1 else k

/-- An entry is cleared with this IOSC period (R3). -/
def initDue (i : Option Nat) : Bool :=
  match i with
  | some k => decide (224 ≤ k)
  | none => false

/-- An event of the list if it is due. -/
def dueIf (due : Bool) (i : Instr) : List Instr := if due then [i] else []

/-- The events that fall due with this IOSC period. While RSTN is low only INIT goes on (R5, R27,
R111, R135, R172). -/
def dueNow (s : State) : List Instr :=
  dueIf (initDue s.init) .initClear ++
    if s.port.rstnLow then []
    else
      dueIf s.tb.tickDue .tickBoundary ++ dueIf s.tb.lossDue .lossDetected
        ++ dueIf (s.carrier .a).phaseDue ((s.carrier .a).phaseEvent .a)
        ++ dueIf (s.carrier .b).phaseDue ((s.carrier .b).phaseEvent .b)
        ++ LineId.all.flatMap fun i => dueIf (s.input i).sampleDue (.sample i)

/-- The counts over one IOSC period. -/
def countPeriod (s : State) : State :=
  let s1 := { s with init := initPasses s.init }
  if s.port.rstnLow then s1
  else
    { s1 with
      tb := s.tb.periodPasses
      carriers := PerCarrier.build fun x => (s.carrier x).tick
      inputs := PerLine.build fun i => (s.input i).tick }

/-- A command put behind those of its rank or a lower one. -/
def insertRanked (draw : Nat) (c : Instr) : List Instr → List Instr
  | [] => [c]
  | d :: rest =>
    if Config.eventRank draw c < Config.eventRank draw d then c :: d :: rest
    else d :: insertRanked draw c rest

/-- Commands in an order the manual leaves open: by a free rank (log 3). -/
def ranked (draw : Nat) : List Instr → List Instr
  | [] => []
  | c :: rest => insertRanked draw c (ranked draw rest)

/-- The part of a list before its first tick boundary. -/
def beforeTick : List Instr → List Instr
  | [] => []
  | c :: rest => if c = .tickBoundary then [] else c :: beforeTick rest

/-- The part of a list behind its first tick boundary. -/
def afterTick : List Instr → List Instr
  | [] => []
  | c :: rest => if c = .tickBoundary then rest else afterTick rest

/-- The lanes' own events for a boundary. -/
def laneEvents : List Instr := LaneId.all.map .laneBoundary

/-- The events of one period in a free order. The lanes' own events come behind the boundary that
is handed to them, and a loss taken in EXTERNAL before the boundary re-latches the tick, so that
the boundary does not come (R25, R35). A SAMPLE may fall between the boundary and a lane's own event
for it, so that a capture record can carry the new TIME with the tag lane's old snapshot: R132 and
R134 allow it, section 11.4 says that the two always agree (DESIGN CHOICE, log 18). -/
def orderDue (s : State) : List Instr :=
  let due := ranked s.draws (dueNow s)
  if .tickBoundary ∈ due then
    if .lossDetected ∈ beforeTick due ∧ s.tb.state = .external then
      beforeTick due ++ afterTick due
    else beforeTick due ++ .tickBoundary :: ranked s.draws (afterTick due ++ laneEvents)
  else due

/-- The own events of lanes to which a boundary has been handed and that have not taken it. -/
def lanesDue (s : State) : List Instr :=
  if s.port.rstnLow then []
  else LaneId.all.flatMap fun n => dueIf (s.lane n).ownDue (.laneBoundary n)

/-- What a step does on an empty queue: lanes that have not taken their boundary are sent it; else
one IOSC period passes (log 2). -/
def clockStep (s : State) : State :=
  if lanesDue s = [] then
    { countPeriod s with draws := s.draws + 1, pending := orderDue s }
  else { s with draws := s.draws + 1, pending := ranked s.draws (lanesDue s) }

end Sys2Proof.Machine
end

