-- ==== Sys2Proof/Machine/CommandFamily.lean ====
section
/-! DEFINITION. The global and lane commands (R28 to R30, R76, R89, R90, R93, R94, R144). -/

namespace Sys2Proof.Machine

/-- TB_USE_INTERNAL (R29). -/
def execTbUseInternal (s : State) : Host.Outcome State Fault Refusal :=
  .next (hostWord .write Reg.globalCmd.index (globalCommand useInternal) s)

/-- TB_USE_EXTERNAL (R28). -/
def execTbUseExternal (s : State) : Host.Outcome State Fault Refusal :=
  .next (hostWord .write Reg.globalCmd.index (globalCommand useExternal) s)

/-- TB_REARM (R30). -/
def execTbRearm (s : State) : Host.Outcome State Fault Refusal :=
  .next (hostWord .write Reg.globalCmd.index (globalCommand rearm) s)

/-- CAPQ_FLUSH (R144). -/
def execCapqFlush (s : State) : Host.Outcome State Fault Refusal :=
  .next (hostWord .write Reg.globalCmd.index (globalCommand flushCapture) s)

/-- SUBMIT (R76, R77). -/
def execSubmit (lane : BitVec 3) (s : State) : Host.Outcome State Fault Refusal :=
  .next (hostWord .write Reg.laneCmd.index (laneCommand submitTo lane) s)

/-- STOP_AT_END (R89). -/
def execStopAtEnd (lane : BitVec 3) (s : State) : Host.Outcome State Fault Refusal :=
  .next (hostWord .write Reg.laneCmd.index (laneCommand stopAtEnd lane) s)

/-- SPLICE (R90). -/
def execSplice (lane : BitVec 3) (s : State) : Host.Outcome State Fault Refusal :=
  .next (hostWord .write Reg.laneCmd.index (laneCommand spliceLane lane) s)

/-- ABORT (R93). -/
def execAbort (lane : BitVec 3) (s : State) : Host.Outcome State Fault Refusal :=
  .next (hostWord .write Reg.laneCmd.index (laneCommand abortLane lane) s)

/-- CLEAR_FAULT (R94). -/
def execClearFault (lane : BitVec 3) (s : State) : Host.Outcome State Fault Refusal :=
  .next (hostWord .write Reg.laneCmd.index (laneCommand clearFaultOf lane) s)

end Sys2Proof.Machine
end

