-- ==== Sys2Proof/Machine/LaneFamily.lean ====
section
/-! DEFINITION. A lane's own event for a boundary, as a whole and under the name of what it comes
to (R46 to R57, R83, R84, R91; log 12). An event that is not due is no event, and leaves the state
as it stands. -/

namespace Sys2Proof.Machine

/-- LANE_BOUNDARY (R46 to R48, R83): the lane's own event, whatever it comes to. -/
def execLaneBoundary (n : LaneId) (s : State) : Host.Outcome State Fault Refusal :=
  if s.port.rstnLow then .next s else laneEvent n s

/-- HOLD_END (R47, R52): the lane's own event where it ends a HOLD. -/
def execHoldEnd (n : LaneId) (s : State) : Host.Outcome State Fault Refusal :=
  if s.port.rstnLow = true ∨ (s.lane n).holdEnds = false then .next s
  else laneEvent n s

/-- TIMEOUT_EXPIRY (R48, R55): the lane's own event where a WAIT expires. -/
def execTimeoutExpiry (n : LaneId) (s : State) : Host.Outcome State Fault Refusal :=
  if s.port.rstnLow = true ∨ (s.lane n).waitExpires = false then .next s
  else laneEvent n s

/-- WAIT_SATISFIED (R48): the lane's own event where it leaves a satisfied WAIT. -/
def execWaitSatisfied (n : LaneId) (s : State) : Host.Outcome State Fault Refusal :=
  if s.port.rstnLow = true ∨ (s.lane n).waitEnds = false then .next s
  else laneEvent n s

/-- LAUNCH_START (R83, R84): the lane's own event where its launch starts. -/
def execLaunchStart (n : LaneId) (s : State) : Host.Outcome State Fault Refusal :=
  if s.port.rstnLow = true ∨ (s.lane n).starts s.tb.time = false then .next s
  else laneEvent n s

/-- SPLICE_LANDING (R48, R83, R91): the lane's own event where a pending splice meets a step
start. -/
def execSpliceLanding (n : LaneId) (s : State) : Host.Outcome State Fault Refusal :=
  if s.port.rstnLow = true ∨ (s.lane n).spliceLands = false then .next s
  else laneEvent n s

end Sys2Proof.Machine
end

