-- ==== Sys2Proof/Machine/PortFamily.lean ====
section
/-! DEFINITION. Frames and the accesses that are no register's own row (R162 to R169). -/

namespace Sys2Proof.Machine

/-- What a short frame does at the port, before the frame ends (R164, R165, R4). -/
def cutWord (cut : Cut) (s : State) : State :=
  match cut with
  | .commandByte => s.portError .shortFrame 0
  | .dataWord .write i => s.portError .shortFrame i
  | .dataWord .read i =>
    match regAt i with
    | none => (s.portError .badIndex i).portError .shortFrame i
    | some .pmemData =>
      if s.initBusy then (s.portError .initAccess i).portError .shortFrame i
      else s.portError .shortFrame i
    | some _ => s.portError .shortFrame i

/-- CSN has risen: no frame is in progress (R162). -/
def endCutFrame (s : State) : State :=
  { s with port := { s.port with csnLow := false, frame := none } }

/-- FRAME_START (R162, R167, R172): the falling edge of CSN takes the status byte. While RSTN is
low the edge is not examined. -/
def execFrameStart (s : State) : Host.Outcome State Fault Refusal :=
  if s.port.rstnLow then .next { s with port := { s.port with csnLow := true } }
  else .next { s with port := { s.port with csnLow := true, frame := some ⟨s.statusByte, none, none⟩ } }

/-- FRAME_END (R162, R172): the rising edge of CSN after a whole byte or word. -/
def execFrameEnd (s : State) : Host.Outcome State Fault Refusal :=
  .next { s with port := { s.port with csnLow := false, frame := none } }

/-- SHORT_FRAME (R9, R164, R166): the rising edge of CSN part-way through a byte or word. A cut
write is not taken; a cut read has had its port error, if any, when it was taken, and does not
advance the pointer. -/
def execShortFrame (cut : Cut) (s : State) : Host.Outcome State Fault Refusal :=
  .next (endCutFrame (if s.portListens then cutWord cut s else s))

/-- BAD_INDEX (R165): an access at an index, which the port judges by its index. -/
def execBadIndex (dir : Direction) (index : Index) (word : Word) (s : State) :
    Host.Outcome State Fault Refusal :=
  match dir with
  | .read => .next (hostWord .read index (readAt index) s)
  | .write => .next (hostWord .write index (writeAt index word) s)

/-- READ_ONLY_WRITE (R165): a write, which the port judges by its index. -/
def execReadOnlyWrite (index : Index) (word : Word) (s : State) :
    Host.Outcome State Fault Refusal :=
  .next (hostWord .write index (writeAt index word) s)

/-- REGISTER_WRITE (R6, R22, R31, R75, R165, R168): a write, which the port judges by its index.
-/
def execRegisterWrite (index : Index) (word : Word) (s : State) :
    Host.Outcome State Fault Refusal :=
  .next (hostWord .write index (writeAt index word) s)

/-- PMEM_DATA_WRITE (R4, R7). -/
def execPmemDataWrite (word : Word) (s : State) : Host.Outcome State Fault Refusal :=
  .next (hostWord .write Reg.pmemData.index (writePmem word) s)

/-- PMEM_DATA_READ (R4, R8). -/
def execPmemDataRead (s : State) : Host.Outcome State Fault Refusal :=
  .next (hostWord .read Reg.pmemData.index readPmem s)

/-- LANE_CMD_BAD_COMMAND (R169): a LANE_CMD word, which the port judges by its op code. -/
def execLaneCmdBadCommand (op : BitVec 4) (lane : BitVec 3) (s : State) :
    Host.Outcome State Fault Refusal :=
  .next (hostWord .write Reg.laneCmd.index (writeLaneCmd op lane) s)

end Sys2Proof.Machine
end

