-- ==== Sys2Proof/Machine/ResetFamily.lean ====
section
/-! DEFINITION. The commands of reset and INIT (R3, R5, R171, R172). -/

namespace Sys2Proof.Machine

/-- POR (R2, R3, R27, R41, R72, R98, R111, R125, R135, R145, R161, R172): every block in its POR
state, the memory at its power-up contents, INIT begun. The levels outside drives on the pins stay
(log 7). -/
def execPor (s : State) : Host.Outcome State Fault Refusal :=
  .next { hardReset s with pmem := s.pmem.powerUp, init := some 0 }

/-- INIT_CLEAR (R3, R5): the next entry is cleared; the clearing of FFFh ends INIT. INIT goes on
while RSTN is low. Outside INIT there is no such event. -/
def execInitClear (s : State) : Host.Outcome State Fault Refusal :=
  match s.init with
  | none => .next s
  | some _ =>
    .next
      { s with
        pmem := s.pmem.clearNext
        init := if s.pmem.cleared + 1 < 4096 then some 224 else none }

/-- RSTN_ASSERT (R27, R172): the part is held in reset, the tick in progress is discarded and the
frame in progress ends without a port error. -/
def execRstnAssert (s : State) : Host.Outcome State Fault Refusal :=
  .next
    { s with
      tb := { s.tb with tick := { s.tb.tick with count := 0 } }
      port := { s.port with rstnLow := true, frame := none } }

/-- RSTN_RESET (R5, R172): the release of RSTN. Every block takes its RSTN-reset state, INIT ends
where it stands, and the memory is kept. -/
def execRstnReset (s : State) : Host.Outcome State Fault Refusal :=
  let s1 := hardReset s
  .next { s1 with init := none, port := { s1.port with rstnLow := false } }

/-- SOFT_RESET (R168, R171). -/
def execSoftReset (s : State) : Host.Outcome State Fault Refusal :=
  .next (hostWord .write Reg.globalCmd.index (globalCommand softResetAll) s)

end Sys2Proof.Machine
end

