-- ==== Sys2Proof/Machine/SignalFamily.lean ====
section
/-! DEFINITION. The events of the carrier generators and the input lines (R102, R127). -/

namespace Sys2Proof.Machine

/-- HIGH_PHASE_END (R102, R109): of an enabled generator in its HIGH phase. -/
def execHighPhaseEnd (x : CarrierId) (s : State) : Host.Outcome State Fault Refusal :=
  .next (unlessHeld
    (fun t =>
      if (t.carrier x).enable = true ∧ (t.carrier x).phase = .high then endHighPhase x t else t) s)

/-- PERIOD_END (R102, R108): of an enabled generator in its LOW phase. -/
def execPeriodEnd (x : CarrierId) (s : State) : Host.Outcome State Fault Refusal :=
  .next (unlessHeld
    (fun t =>
      if (t.carrier x).enable = true ∧ (t.carrier x).phase = .low then endPeriod x t else t) s)

/-- IN_PIN_CHANGE (R127): the pin's level is outside's, RSTN low or not. -/
def execInPinChange (n : LineId) (level : Level) (s : State) : Host.Outcome State Fault Refusal :=
  .next (s.setInput n { s.input n with pin := level })

/-- SAMPLE (R127 to R129, R132, R134, R138, R139). -/
def execSample (n : LineId) (s : State) : Host.Outcome State Fault Refusal :=
  .next (unlessHeld (takeSample n) s)

end Sys2Proof.Machine
end

