-- ==== Sys2Proof/Machine/TimeFamily.lean ====
section
/-! DEFINITION. The events of the timebase (R23, R25, R32 to R35). -/

namespace Sys2Proof.Machine

/-- The REFIN edge that is the boundary of a REFIN tick, at the window timer (R23, R32). -/
def boundaryEdge (s : State) : State :=
  if s.tb.tick.source = .refin ∧ s.tb.state = .external then
    { s with tb := { s.tb with window := 0 } }
  else s

/-- TICK_BOUNDARY (R25). The boundary of a REFIN tick is a REFIN edge, and resets the window timer
too (R23, R32). -/
def execTickBoundary (s : State) : Host.Outcome State Fault Refusal :=
  .next (unlessHeld (fun t => tickEnds (boundaryEdge t)) s)

/-- REFIN_EDGE (R21, R23, R32, R33): the edge at the monitor and at the tick in progress. The edge
that completes a REFIN tick is its boundary, and the one that completes qualification is the lock.
-/
def execRefinEdge (s : State) : Host.Outcome State Fault Refusal :=
  .next (unlessHeld (fun t => tickEdge (monitorEdge t)) s)

/-- LOCK (R33, R34): the edge that brings the qualification count to 4096. -/
def execLock (s : State) : Host.Outcome State Fault Refusal :=
  .next (unlessHeld
    (fun t => if t.tb.state = .qualifying ∨ t.tb.state = .requalifying then lockNow t else t) s)

/-- LOSS_DETECTED (R32, R33, R35, R36, R123). -/
def execLossDetected (s : State) : Host.Outcome State Fault Refusal :=
  .next (unlessHeld (fun t => settle t (detectLoss t)) s)

end Sys2Proof.Machine
end

