-- ==== Sys2Proof/Machine/WriteFamily.lean ====
section
/-! DEFINITION. The register writes with a behaviour of their own (R20, R43, R100, R103, R113,
R131, R141, R142, R156, R158, R159). -/

namespace Sys2Proof.Machine

/-- TB_TRIM (R20). -/
def execTbTrim (word : Word) (s : State) : Host.Outcome State Fault Refusal :=
  .next (hostWord .write Reg.tbTrim.index (writeTrim word) s)

/-- INT_STATUS (R158, R166). -/
def execIntStatus (word : Word) (s : State) : Host.Outcome State Fault Refusal :=
  .next (hostWord .write Reg.intStatus.index (writeIntStatus word) s)

/-- INT_ENABLE (R159). -/
def execIntEnable (word : Word) (s : State) : Host.Outcome State Fault Refusal :=
  .next (hostWord .write Reg.intEnable.index (writeIntEnable word) s)

/-- LANE_CFG (R43, R109, R110). -/
def execLaneCfg (n : LaneId) (word : Word) (s : State) : Host.Outcome State Fault Refusal :=
  .next (hostWord .write (Reg.laneCfg n).index (writeLaneCfg n word) s)

/-- GROUP_MEMBERS (R113). -/
def execGroupMembers (g : GroupId) (word : Word) (s : State) : Host.Outcome State Fault Refusal :=
  .next (hostWord .write (Reg.groupMembers g).index (writeMembers g word) s)

/-- CAR_CTRL (R100, R101, R105). -/
def execCarCtrl (x : CarrierId) (word : Word) (s : State) : Host.Outcome State Fault Refusal :=
  .next (hostWord .write (Reg.carCtrl x).index (writeCarCtrl x word) s)

/-- CAR_WIDTH (R103, R104). -/
def execCarWidth (x : CarrierId) (word : Word) (s : State) : Host.Outcome State Fault Refusal :=
  .next (hostWord .write (Reg.carWidth x).index (writeCarWidth x word) s)

/-- IN_CFG (R131). -/
def execInCfg (n : LineId) (word : Word) (s : State) : Host.Outcome State Fault Refusal :=
  .next (hostWord .write (Reg.inCfg n).index (writeInCfg n word) s)

/-- CAPQ_STATUS (R142). -/
def execCapqStatus (word : Word) (s : State) : Host.Outcome State Fault Refusal :=
  .next (hostWord .write Reg.capqStatus.index (writeThreshold word) s)

/-- CAPQ_POP (R141): the word is not examined. -/
def execCapqPop (_word : Word) (s : State) : Host.Outcome State Fault Refusal :=
  .next (hostWord .write Reg.capqPop.index popCapture s)

/-- EVQ_POP (R154, R156): the word is not examined. -/
def execEvqPop (_word : Word) (s : State) : Host.Outcome State Fault Refusal :=
  .next (hostWord .write Reg.evqPop.index popEvent s)

end Sys2Proof.Machine
end

