-- ==== Sys2Proof/Machine/Dispatch.lean ====
section
/-! DEFINITION. One arm for each command: its meaning. -/

namespace Sys2Proof.Machine

def exec (i : Instr) (s : State) : Host.Outcome State Fault Refusal :=
  match i with
  | .por => Sys2Proof.Machine.execPor s
  | .initClear => Sys2Proof.Machine.execInitClear s
  | .rstnAssert => Sys2Proof.Machine.execRstnAssert s
  | .rstnReset => Sys2Proof.Machine.execRstnReset s
  | .frameStart => Sys2Proof.Machine.execFrameStart s
  | .shortFrame cut => Sys2Proof.Machine.execShortFrame cut s
  | .badIndex dir index word => Sys2Proof.Machine.execBadIndex dir index word s
  | .readOnlyWrite index word => Sys2Proof.Machine.execReadOnlyWrite index word s
  | .registerWrite index word => Sys2Proof.Machine.execRegisterWrite index word s
  | .pmemDataWrite word => Sys2Proof.Machine.execPmemDataWrite word s
  | .pmemDataRead => Sys2Proof.Machine.execPmemDataRead s
  | .tbTrim word => Sys2Proof.Machine.execTbTrim word s
  | .intStatus word => Sys2Proof.Machine.execIntStatus word s
  | .intEnable word => Sys2Proof.Machine.execIntEnable word s
  | .laneCfg n word => Sys2Proof.Machine.execLaneCfg n word s
  | .groupMembers g word => Sys2Proof.Machine.execGroupMembers g word s
  | .carCtrl x word => Sys2Proof.Machine.execCarCtrl x word s
  | .carWidth x word => Sys2Proof.Machine.execCarWidth x word s
  | .inCfg n word => Sys2Proof.Machine.execInCfg n word s
  | .capqStatus word => Sys2Proof.Machine.execCapqStatus word s
  | .capqPop word => Sys2Proof.Machine.execCapqPop word s
  | .evqPop word => Sys2Proof.Machine.execEvqPop word s
  | .softReset => Sys2Proof.Machine.execSoftReset s
  | .tbUseInternal => Sys2Proof.Machine.execTbUseInternal s
  | .tbUseExternal => Sys2Proof.Machine.execTbUseExternal s
  | .tbRearm => Sys2Proof.Machine.execTbRearm s
  | .capqFlush => Sys2Proof.Machine.execCapqFlush s
  | .submit lane => Sys2Proof.Machine.execSubmit lane s
  | .stopAtEnd lane => Sys2Proof.Machine.execStopAtEnd lane s
  | .splice lane => Sys2Proof.Machine.execSplice lane s
  | .abort lane => Sys2Proof.Machine.execAbort lane s
  | .clearFault lane => Sys2Proof.Machine.execClearFault lane s
  | .tickBoundary => Sys2Proof.Machine.execTickBoundary s
  | .laneBoundary n => Sys2Proof.Machine.execLaneBoundary n s
  | .holdEnd n => Sys2Proof.Machine.execHoldEnd n s
  | .timeoutExpiry n => Sys2Proof.Machine.execTimeoutExpiry n s
  | .waitSatisfied n => Sys2Proof.Machine.execWaitSatisfied n s
  | .launchStart n => Sys2Proof.Machine.execLaunchStart n s
  | .spliceLanding n => Sys2Proof.Machine.execSpliceLanding n s
  | .highPhaseEnd x => Sys2Proof.Machine.execHighPhaseEnd x s
  | .periodEnd x => Sys2Proof.Machine.execPeriodEnd x s
  | .refinEdge => Sys2Proof.Machine.execRefinEdge s
  | .lock => Sys2Proof.Machine.execLock s
  | .lossDetected => Sys2Proof.Machine.execLossDetected s
  | .inPinChange n level => Sys2Proof.Machine.execInPinChange n level s
  | .sample n => Sys2Proof.Machine.execSample n s
  | .frameEnd => Sys2Proof.Machine.execFrameEnd s
  | .laneCmdBadCommand op lane => Sys2Proof.Machine.execLaneCmdBadCommand op lane s

end Sys2Proof.Machine
end

