-- ==== Sys2Proof/Machine/Step.lean ====
section
/-! DEFINITION. One step: the command at the front of the queue, or, with none waiting, one period
of the part's own clock. -/

namespace Sys2Proof.Machine

/-- The command at the front of the queue is taken with the rest of the queue behind it. With an
empty queue the part's clock runs (log 2). -/
def step (s : State) : Host.Outcome State Fault Refusal :=
  match s.pending with
  | c :: rest => exec c { s with pending := rest }
  | [] => .next (clockStep s)

/-- The state with the command a table word spells put at the front of its queue; no row of the
table gives bits, so no word spells one. -/
def State.withFetchWord (s : State) (nbits w : Nat) : State :=
  match decodeTableWord nbits w with
  | some c => { s with pending := c :: s.pending }
  | none => s

end Sys2Proof.Machine
end

