-- ==== Sys2Proof/Safety.lean ====
section
/-! DEFINITION. What a sound state of the part is: the bounds and the agreements between its blocks
that every step keeps, and the words statements about commands use. -/

namespace Sys2Proof.Machine

/-! ## Invariants -/

/-- The pattern memory is in canonical form, and INIT in progress has an entry left to clear (R3).
-/
def State.MemoryOk (s : State) : Prop :=
  s.pmem.wf = true ∧ (s.init.isSome = true → s.pmem.cleared < 4096)

/-- The lane's AWAIT_POST slots are as many as its entries of the deferral list, and its queue holds
at most 4 slots (R73, R97, R152). -/
def State.QueueOk (s : State) (n : LaneId) : Prop :=
  (s.lane n).queue.slots ≤ 4 ∧
    (s.lane n).queue.awaiting.length = s.evq.deferral.count (.lane n)

/-- The two record queues: never more than 32 records, none waiting while there is room, and one
waiting entry for each record a source holds (R138, R148, R152, R153). -/
def State.QueuesOk (s : State) : Prop :=
  s.evq.placed.length ≤ 32 ∧ (s.evq.deferral ≠ [] → s.evq.placed.length = 32) ∧
    (∀ n, s.QueueOk n) ∧
    s.evq.deferral.count .timebase = (if s.tb.record.isSome then 1 else 0) ∧
    s.capq.records.length ≤ 32

/-- A frame of a lane's stack: a REPEAT frame has passes left (R65). -/
def StackFrame.Ok : StackFrame → Prop
  | .sub _ => True
  | .loop _ k => k ≠ 0

/-- A lane is at a launch exactly in ARMED, RUNNING and WAITING; what waits behind none is at a
FAULTED lane; its stack holds at most 4 frames and its zero-run count is at most 16 (R42, R65, R78).
-/
def Lane.Ok (l : Lane) : Prop :=
  (l.queue.active.isSome = true ↔ l.state = .armed ∨ l.state = .running ∨ l.state = .waiting) ∧
    (l.queue.pending ≠ [] → l.state ≠ .idle) ∧
    l.stack.length ≤ 4 ∧ (∀ f ∈ l.stack, f.Ok) ∧ l.zeroRun ≤ 16

def State.LanesOk (s : State) : Prop := ∀ n, (s.lane n).Ok

/-- Lane n waits for group g to release: WAITING with that source, its wait not yet satisfied, or
ARMED on an ON_GROUP launch for it, its start not yet met (R112). -/
def State.HeldFor (s : State) (n : LaneId) (g : GroupId) : Prop :=
  let l := s.lane n
  (l.state = .waiting ∧ l.waitSource = some (.group g) ∧ l.waitSatisfied = false) ∨
    (l.state = .armed ∧
      ∃ a, l.queue.active = some a ∧ a.desc.start = .onGroup g ∧ a.startMet = false)

/-- The arrived set is part of the member set and holds only lanes that wait for this group, no lane
is in both arrived sets, and the set is empty while a member is FAULTED (R112, R122). -/
def State.GroupsOk (s : State) : Prop :=
  (∀ g, (∀ n, LaneSet.has (s.group g).arrived n = true →
      LaneSet.has (s.group g).members n = true ∧ s.HeldFor n g) ∧
    (memberFaulted s g = true → (s.group g).arrived = 0)) ∧
  ∀ n, ¬(LaneSet.has (s.group .g0).arrived n = true ∧ LaneSet.has (s.group .g1).arrived n = true)

/-- The timebase: the window timer and the qualification count stay below their ends, and stand at
rest where the monitor stops; a tick from REFIN is one of the EXTERNAL state; a switch is requested
only outside INTERNAL (R23, R29, R32, R33). That the window timer holds 0 in INTERNAL after a switch
is the model's choice (log 15). -/
def Timebase.Ok (t : Timebase) : Prop :=
  t.window < 256 ∧ (t.state.monitored = false → t.window = 0) ∧
    (t.state = .internal ∨ t.state = .holdover → t.qual = 0) ∧
    (t.state = .qualifying ∨ t.state = .requalifying → t.qual < 4096) ∧
    (t.state = .external → t.qual = 4096) ∧
    t.tick.count < t.tick.div.total ∧
    (t.tick.source = .refin → t.state = .external ∧ t.tick.set = .external) ∧
    (t.switchReq = true → t.state ≠ .internal)

/-- A width pair the hardware may hold (R99). -/
def WidthPair.Ok (p : WidthPair) : Prop := p.high ≠ 0 ∧ p.low ≠ 0

/-- A carrier generator: legal widths, at rest while disabled, and its count below its phase's width
while enabled (R99, R102). The bounds of sub, the periods counted within a carrier clock, are read
by inference (log 6). -/
def Carrier.Ok (c : Carrier) : Prop :=
  c.inUse.Ok ∧ (∀ p, c.pair = some p → p.Ok) ∧
    (c.enable = false → c.phase = .low ∧ c.count = 0 ∧ c.sub = 0) ∧
    (c.enable = true → c.count < c.width ∧ c.sub < c.p)

/-- An input line: its run is below F, and its sample count below 2^s (R126). -/
def InputLine.Ok (l : InputLine) : Prop :=
  l.runCount < l.f ∧ l.sampleCount < 2 ^ l.divider.toNat

/-- The host port: a frame is in progress only with CSN low and RSTN high, and PORT_ERROR stands
only with a latched cause (R162, R166, R172). -/
def State.PortOk (s : State) : Prop :=
  (s.port.frame.isSome = true → s.port.csnLow = true ∧ s.port.rstnLow = false) ∧
    (s.ints.portError = true → s.port.portErr.cause ≠ .none)

/-- The units that hold no queue: the timebase, the carriers, the lines and the port. -/
def State.UnitsOk (s : State) : Prop :=
  s.tb.Ok ∧ (∀ x, (s.carrier x).Ok) ∧ (∀ i, (s.input i).Ok) ∧ s.PortOk

/-- What every step keeps, whole. -/
def State.Ok (s : State) : Prop :=
  s.MemoryOk ∧ s.QueuesOk ∧ s.LanesOk ∧ s.GroupsOk ∧ s.UnitsOk

/-! ## Words of the statements about commands -/

/-- Every block but the pattern memory and INIT in the state POR and an RSTN reset leave it in (R27,
R41, R43, R72, R75, R98, R111, R125, R135, R145, R159, R161, R166, R172). The levels on the pins are
outside's; `handedSet`, `sub`, `lastRead`, `ownDue`, `sinceBoundary` and `sight` are the model's
own. -/
def State.AtReset (s : State) : Prop :=
  s.ptr = ⟨0, false⟩ ∧
  s.tb =
    { state := .internal, divInt := ⟨0, 24⟩, divExt := ⟨0, 10⟩, divHold := ⟨0, 24⟩, trim := 0
      autoRearm := false, time := 0, tick := ⟨.iosc, .internal, ⟨0, 24⟩, 0⟩
      handedSet := .internal, switchReq := false, window := 0, qual := 0, record := none } ∧
  (∀ n, s.lane n =
    { state := .idle, stepAddr := 0, remaining := 0, level := none, rest := .cfgIdle, stack := []
      zeroRun := 0, passesDone := 0, splicePending := false, stopPending := false
      waitSource := none, waitStrict := false, waitSatisfied := false, cause := none
      holdoverSeen := false, boundaryTaken := false, ownDue := false, sinceBoundary := false
      sight := none
      cfg := ⟨.highz, .low, .continue, false⟩, gate := .closed, trail := none
      queue := ⟨[], none, []⟩ }) ∧
  s.staging = ⟨0, 0, 0⟩ ∧
  (∀ x, s.carrier x =
    { enable := false, prescale := 0, inUse := ⟨1, 1⟩, pair := none, phase := .low, count := 0
      sub := 0 }) ∧
  (∀ g, s.group g = ⟨0, 0, 0⟩) ∧
  (∀ i, s.input i =
    { filter := 1, divider := 0, trigger := .none, capture := .none, tagCode := 7, sampleCount := 0
      accepted := none, runLevel := .low, runCount := 0, pin := (s.input i).pin }) ∧
  s.capq = ⟨[], 0, 1⟩ ∧ s.evq = ⟨[], [], 0⟩ ∧ s.ints = ⟨false, false, false, 0⟩ ∧
  s.port.cmdResult = ⟨.ok, 0⟩ ∧ s.port.portErr = ⟨.none, 0⟩ ∧ s.port.frame = none ∧
  s.port.lastRead = none

/-- The staging registers hold a descriptor's fields at the positions and codes of R178. -/
def Staging.Holds (st : Staging) (d : Descriptor) : Prop :=
  d.entry = st.desc0.extractLsb' 0 12 ∧ d.passes = st.desc0.extractLsb' 12 8 ∧
    d.tag = st.desc0.extractLsb' 24 8 ∧
    st.desc0.extractLsb' 20 3 =
      (match d.rest with | .low => 0#3 | .high => 1#3 | .last => 2#3 | .idle => 3#3) ∧
    match d.start with
    | .immediate => st.desc1.extractLsb' 0 3 = 0
    | .atTime t => st.desc1.extractLsb' 0 3 = 1 ∧ t = st.time
    | .onGroup g => st.desc1.extractLsb' 0 3 = 2 ∧ st.desc1.extractLsb' 4 3 = BitVec.ofNat 3 g.num
    | .onTrigger i => st.desc1.extractLsb' 0 3 = 3 ∧ st.desc1.extractLsb' 4 3 = BitVec.ofNat 3 i.num

/-- The state with the frame in progress after a data word at an index (R162, R163), which is what a
command's own effect starts from. Obligations.FrameEdges says, case by case, what it is. -/
def State.wordAt (s : State) (dir : Direction) (index : Index) : State := s.advanceFrame dir index

/-- What lane n is to act on came behind the boundary whose own event it has yet to take, so that
the lane acts on it at the boundary after: an activation, or a release by a command (R79, R80, R117;
log 16). -/
abbrev State.actsAfter (s : State) (n : LaneId) : Prop :=
  (s.lane n).sinceBoundary = true ∧ ((s.lane n).state = .armed ∨ (s.lane n).state = .waiting)

/-- The part takes a lane's own event, and the lane acts in it (R46, R172; log 16). -/
abbrev State.takesLaneEvent (s : State) (n : LaneId) : Prop :=
  s.port.rstnLow = false ∧ (s.lane n).boundaryTaken = false ∧ ¬ s.actsAfter n

/-- No lane stands in an arrived set but the lane given: its fault breaks no barrier (R121). -/
def State.heldAlone (s : State) (n : LaneId) : Prop :=
  ∀ g, LaneSet.erase (s.group g).arrived n = 0

/-- The groups with a lane taken out of every arrived set (R119, R121). -/
def State.groupsWithout (s : State) (n : LaneId) : PerGroup Group :=
  PerGroup.build fun g => { s.group g with arrived := LaneSet.erase (s.group g).arrived n }

/-- The ABORTED records of faults taken in one event are offered lane by lane in the order given,
each made from its lane as it stood when the event began: a lane without a launch has none (R67,
R96). -/
def State.postAborted (old : State) (cause : LaneId → FaultCause) (order : List LaneId)
    (s : State) : State :=
  order.foldl
    (fun t n =>
      match (old.lane n).queue.active with
      | none => t
      | some a =>
        postTerminal n a.desc
          (.aborted n a.desc.tag (old.lane n).passesDone (.fault (cause n)) (old.lane n).stepAddr) t)
    s

/-- What the activation of descriptor d at lane n leaves, its other PENDING ones being the list
given: the state t, and the work w of the same event, which is none between boundaries (R78 to R82,
R115 to R118). A start met at once is work at a boundary, and sets start met between boundaries. -/
def State.Activates (s : State) (n : LaneId) (d : Descriptor) (rest : List Descriptor)
    (boundary : Bool) (t : State) (w : List Work) : Prop :=
  let armed (met : Bool) : Lane :=
    { s.lane n with
      state := .armed, stepAddr := d.entry, remaining := 0, passesDone := 0, zeroRun := 0
      level := none, sinceBoundary := (s.lane n).ownDue
      queue := { (s.lane n).queue with active := some ⟨d, met, 0⟩, pending := rest } }
  let stays : Prop := t = s.setLane n (armed false) ∧ w = []
  let starts : Prop :=
    if boundary then t = s.setLane n (armed false) ∧ w = [.start n]
    else t = s.setLane n (armed true) ∧ w = []
  match d.start with
  | .immediate => starts
  | .atTime x =>
    if 1 ≤ (x - s.tb.time).toNat ∧ (x - s.tb.time).toNat < 2 ^ 31 then stays else starts
  | .onTrigger _ => stays
  | .onGroup g =>
    let members := (s.group g).members
    let all := LaneSet.insert (s.group g).arrived n
    let shut : Prop := ∃ m, m ≠ n ∧ LaneSet.has members m = true ∧ (s.lane m).state = .faulted
    let groups := s.groups.set g { s.group g with arrived := 0, count := (s.group g).count + 1 }
    (LaneSet.has members n = false →
      t = faultLane .notMember n (s.setLane n (armed false)) ∧ w = []) ∧
    (LaneSet.has members n = true → shut →
      t = faultLane .barrierBroken n (s.setLane n (armed false)) ∧ w = []) ∧
    (LaneSet.has members n = true → ¬ shut → all ≠ members →
      t = (s.setLane n (armed false)).setGroup g { s.group g with arrived := all } ∧ w = []) ∧
    (all = members → ¬ shut →
      let r := offerInfo (.groupReleased g all ((s.group g).count + 1)) s
      if boundary then
        t = { r with groups := groups, lanes := s.lanes.set n (armed false) } ∧
          w = (LaneId.all.filter fun m => LaneSet.has all m).map .released
      else
        w = [] ∧ t =
          { r with
            groups := groups
            lanes := PerLane.build fun m =>
              if m = n then armed true
              else if LaneSet.has all m = true ∧ (s.lane m).state = .waiting then
                { s.lane m with waitSatisfied := true, sinceBoundary := (s.lane m).ownDue }
              else if LaneSet.has all m = true ∧ (s.lane m).state = .armed then
                { s.lane m with
                  sinceBoundary := (s.lane m).ownDue
                  queue := { (s.lane m).queue with
                    active := (s.lane m).queue.active.map fun a => { a with startMet := true } } }
              else s.lane m })

/-- The lane notes the tick that ended if it ended on the HOLDOVER set (R46). -/
def Lane.seen (l : Lane) (s : State) : Bool :=
  l.holdoverSeen || decide (s.tb.handedSet = .holdover)

end Sys2Proof.Machine
end

