-- ==== Sys2Proof/Certificates/Slice0/Obligations.lean ====
section
/-! DEFINITION. The statements for the provers, from the numbered rules of spec/. Where a statement
says that a command answers a next state, it gives that state field by field or as an update of the
state before, so it is the command's completion, its result and its frame at once. -/

section Statements

open Sys2Proof Sys2Proof.Machine

/-! ## The queue, the clock, the port -/

/-- A step takes the command at the front of the queue, with the rest of the queue behind it (log
1). -/
def Obligations.StepTakesFrontCommand : Prop :=
  ∀ (c : Instr) (rest : List Instr) (s : State), s.pending = c :: rest →
    step s = exec c { s with pending := rest }

/-- No command changes the queue of commands, nor the model's count of draws (the
model's own fields, logs 1 and 3). -/
def Obligations.CommandsKeepTheQueue : Prop :=
  ∀ (c : Instr) (s t : State), exec c s = .next t → t.pending = s.pending ∧ t.draws = s.draws

/-- A step on an empty queue (the model's choice, logs 2 and 3). Lanes that have not taken a
boundary handed to them are sent their own events, each once, and nothing else happens. With none,
one period of IOSC passes: INIT, the tick in progress, the window timer, each carrier and each line
count it, exactly the events due at it are queued, each once, a lane's own event behind the boundary
handed to it, and everything else stays. While RSTN is low only INIT counts. -/
def Obligations.ClockStepOnEmptyQueue : Prop :=
  (∀ s : State, s.pending = [] → s.port.rstnLow = false → (∃ n, (s.lane n).ownDue = true) →
    ∃ p, step s = .next { s with draws := s.draws + 1, pending := p } ∧ p.Nodup ∧
      ∀ c, c ∈ p ↔ ∃ n, c = .laneBoundary n ∧ (s.lane n).ownDue = true) ∧
  (∀ s : State, s.pending = [] → s.port.rstnLow = false → (∀ n, (s.lane n).ownDue = false) →
    let tickEnds : Prop :=
      s.tb.tick.source = .iosc ∧ s.tb.tick.div.total ≤ s.tb.tick.count + 1
    let lost : Prop := s.tb.state.monitored = true ∧ 256 ≤ s.tb.window + 1
    let width : CarrierId → Nat := fun x =>
      match (s.carrier x).phase with
      | .high => (s.carrier x).inUse.high.toNat
      | .low => (s.carrier x).inUse.low.toNat
    let phaseEnds : CarrierId → Prop := fun x =>
      (s.carrier x).enable = true ∧ (s.carrier x).p ≤ (s.carrier x).sub + 1 ∧
        width x ≤ (s.carrier x).count + 1
    ∃ t, step s = .next t ∧
      t =
        { s with
          init := s.init.map (fun k => if k < 224 then k + 1 else k)
          tb := { s.tb with
            tick := { s.tb.tick with count := t.tb.tick.count }, window := t.tb.window }
          carriers := t.carriers, inputs := t.inputs, pending := t.pending, draws := s.draws + 1 } ∧
      (t.tb.tick.count = if s.tb.tick.source = .iosc ∧ s.tb.tick.count + 1 < s.tb.tick.div.total
        then s.tb.tick.count + 1 else s.tb.tick.count) ∧
      (t.tb.window = if s.tb.state.monitored = true ∧ s.tb.window + 1 < 256
        then s.tb.window + 1 else s.tb.window) ∧
      (∀ x,
        let c := s.carrier x
        (c.enable = false ∨ phaseEnds x → t.carrier x = c) ∧
        (c.enable = true → c.sub + 1 < c.p → t.carrier x = { c with sub := c.sub + 1 }) ∧
        (c.enable = true → c.p ≤ c.sub + 1 → c.count + 1 < width x →
          t.carrier x = { c with sub := 0, count := c.count + 1 })) ∧
      (∀ i, t.input i =
        { s.input i with
          sampleCount :=
            if (s.input i).sampleCount + 1 < 2 ^ (s.input i).divider.toNat
            then (s.input i).sampleCount + 1 else (s.input i).sampleCount }) ∧
      t.pending.Nodup ∧
      (.initClear ∈ t.pending ↔ ∃ k, s.init = some k ∧ 224 ≤ k) ∧
      (.tickBoundary ∈ t.pending → tickEnds) ∧
      (tickEnds → ¬(s.tb.state = .external ∧ lost) → .tickBoundary ∈ t.pending) ∧
      (.lossDetected ∈ t.pending ↔ lost) ∧
      (∀ n, .laneBoundary n ∈ t.pending ↔ .tickBoundary ∈ t.pending) ∧
      (∀ n before after, t.pending = before ++ .laneBoundary n :: after → .tickBoundary ∈ before) ∧
      (∀ x, .highPhaseEnd x ∈ t.pending ↔ (s.carrier x).phase = .high ∧ phaseEnds x) ∧
      (∀ x, .periodEnd x ∈ t.pending ↔ (s.carrier x).phase = .low ∧ phaseEnds x) ∧
      (∀ i, .sample i ∈ t.pending ↔ 2 ^ (s.input i).divider.toNat ≤ (s.input i).sampleCount + 1) ∧
      ∀ c ∈ t.pending, c = .initClear ∨ c = .tickBoundary ∨ c = .lossDetected ∨
        (∃ n, c = .laneBoundary n) ∨ (∃ x, c = .highPhaseEnd x) ∨ (∃ x, c = .periodEnd x) ∨
        ∃ i, c = .sample i) ∧
  (∀ s : State, s.pending = [] → s.port.rstnLow = true →
    ∃ p, step s = .next
        { s with
          init := s.init.map (fun k => if k < 224 then k + 1 else k)
          draws := s.draws + 1, pending := p } ∧ p.Nodup ∧
      ∀ c, c ∈ p ↔ c = .initClear ∧ ∃ k, s.init = some k ∧ 224 ≤ k)

/-- The register map (R174): each index with the register that stands there, its access type and the
word it reads in the state after POR, and no other index in the map. Write-only registers read 0
(R165), the live HOST_STATUS and IN_LEVEL read as that state makes them, and PMEM_DATA is given no
word. The numbers some codes stand for: a divisor 0 is 256 and a tick 2^m divisors (R22), a prescale
p - 1 is p (R99), a filter F - 1 is F (R126), a threshold 0 is 32 (R142). And in every state: each
register shows its fields at the places and by the codes of R175 and R176, every bit that is no field
there reads 0 (R165), and the heads of an empty queue read 0 (R140, R155). -/
def Obligations.RegisterMapAndResetValues : Prop :=
  let rows : List (Index × Reg × Access × Option Word) :=
    [(0x00, .id, .ro, some 0x06140100), (0x01, .hostStatus, .ro, some 0x81),
      (0x02, .globalCmd, .wo, some 0), (0x03, .laneCmd, .wo, some 0),
      (0x04, .cmdResult, .ro, some 0), (0x05, .intStatus, .rw, some 0),
      (0x06, .intEnable, .rw, some 0), (0x07, .portErr, .ro, some 0), (0x08, .tbCtrl, .rw, some 0),
      (0x09, .tbStatus, .ro, some 0), (0x0A, .tbDiv .internal, .rw, some 0x18),
      (0x0B, .tbDiv .external, .rw, some 0x0A), (0x0C, .tbDiv .holdover, .rw, some 0x18),
      (0x0D, .tbTrim, .rw, some 0), (0x0E, .time, .ro, some 0), (0x10, .pmemPtr, .rw, some 0),
      (0x11, .pmemData, .rw, none), (0x14, .lqDesc0, .rw, some 0), (0x15, .lqDesc1, .rw, some 0),
      (0x16, .lqTime, .rw, some 0), (0x18, .groupMembers .g0, .rw, some 0),
      (0x19, .groupMembers .g1, .rw, some 0), (0x1A, .groupStatus, .ro, some 0),
      (0x1C, .carCtrl .a, .rw, some 0), (0x1D, .carWidth .a, .rw, some 0x01010000),
      (0x1E, .carCtrl .b, .rw, some 0), (0x1F, .carWidth .b, .rw, some 0x01010000)] ++
    [(0x20, .inCfg .in0, .rw, some 0x7001), (0x21, .inCfg .in1, .rw, some 0x7001),
      (0x22, .inCfg .in2, .rw, some 0x7001), (0x23, .inCfg .in3, .rw, some 0x7001),
      (0x24, .inLevel, .ro, some 0), (0x28, .capqHead0, .ro, some 0),
      (0x29, .capqHead1, .ro, some 0), (0x2A, .capqHead2, .ro, some 0),
      (0x2B, .capqStatus, .rw, some 0x100), (0x2C, .capqPop, .wo, some 0),
      (0x30, .evqHead0, .ro, some 0), (0x31, .evqHead1, .ro, some 0),
      (0x32, .evqHead2, .ro, some 0), (0x33, .evqHead3, .ro, some 0),
      (0x34, .evqStatus, .ro, some 0), (0x35, .evqPop, .wo, some 0)] ++
    LaneId.all.flatMap fun n =>
      [(BitVec.ofNat 7 (0x40 + 4 * n.num), .laneCfg n, .rw, some 2),
        (BitVec.ofNat 7 (0x41 + 4 * n.num), .laneStatus n, .ro, some 0),
        (BitVec.ofNat 7 (0x42 + 4 * n.num), .laneStep n, .ro, some 0),
        (BitVec.ofNat 7 (0x43 + 4 * n.num), .lanePass n, .ro, some 0)]
  (∀ row ∈ rows, regAt row.1 = some row.2.1 ∧ row.2.1.index = row.1 ∧ row.2.1.access = row.2.2.1 ∧
    (row.2.2.2 = none ∨ row.2.2.2 = some (readReg row.2.1 State.reset))) ∧
  (∀ i : Index, (regAt i).isSome = true → i ∈ rows.map fun row => row.1) ∧
  (∀ d : Divider, d.divisor = (if d.n = 0 then 256 else d.n.toNat) ∧
    d.total = 2 ^ d.m.toNat * d.divisor) ∧
  (∀ c : Carrier, c.p = c.prescale.toNat + 1) ∧ (∀ l : InputLine, l.f = l.filter.toNat + 1) ∧
  (∀ q : CaptureQueue, q.level = if q.threshold = 0 then 32 else q.threshold.toNat) ∧
  ∀ s : State,
    let bits (r : Reg) (lo width : Nat) : BitVec width := (readReg r s).extractLsb' lo width
    let bit (r : Reg) (k : Nat) : Bool := (readReg r s).getLsbD k
    let level (c : CfgLevel) : BitVec 2 := match c with | .low => 0 | .high => 1 | .highz => 2
    let edges (e : EdgeSet) : BitVec 2 :=
      match e with | .none => 0 | .rise => 1 | .fall => 2 | .both => 3
    let divider (r : Reg) (d : Divider) : Prop := bits r 0 8 = d.n ∧ bits r 8 2 = d.m
    (bits .hostStatus 0 8 = s.statusByte ∧ bits .cmdResult 8 7 = s.port.cmdResult.index ∧
      bits .cmdResult 0 4 =
        (match s.port.cmdResult.code with
          | .ok => 0#4 | .queueFull => 1#4 | .laneBusy => 2#4 | .laneFaulted => 3#4
          | .badField => 4#4 | .nothingActive => 5#4 | .nothingToSplice => 6#4 | .badSplice => 7#4
          | .notFaulted => 8#4 | .groupBusy => 9#4 | .notInHoldover => 10#4 | .empty => 11#4
          | .initBusy => 12#4 | .badCommand => 13#4 | .carrierBusy => 14#4) ∧
      bits .portErr 8 7 = s.port.portErr.index ∧
      bits .portErr 0 3 =
        (match s.port.portErr.cause with
          | .none => 0#3 | .badIndex => 1#3 | .readOnly => 2#3 | .initAccess => 3#3
          | .shortFrame => 4#3)) ∧
    ((bit .intStatus 0 = true ↔ s.evq.placed ≠ []) ∧ bit .intStatus 1 = s.ints.evqDrop ∧
      (bit .intStatus 2 = true ↔ s.capq.level ≤ s.capq.records.length) ∧
      bit .intStatus 3 = s.ints.capqGap ∧ bit .intStatus 4 = s.ints.portError ∧
      bits .intEnable 0 5 = s.ints.enable) ∧
    (bit .tbCtrl 0 = s.tb.autoRearm ∧
      bits .tbStatus 0 3 =
        (match s.tb.state with
          | .internal => 0#3 | .qualifying => 1#3 | .external => 2#3 | .holdover => 3#3
          | .requalifying => 4#3) ∧
      bits .tbStatus 4 13 = BitVec.ofNat 13 s.tb.qual ∧ bit .tbStatus 17 = s.tb.switchReq ∧
      bit .tbStatus 18 = s.tb.record.isSome ∧
      (bit .tbStatus 19 = true ↔ s.tb.tick.source = .refin) ∧
      bits .tbStatus 20 2 =
        (match s.tb.tick.set with | .internal => 0#2 | .external => 1#2 | .holdover => 2#2) ∧
      divider (.tbDiv .internal) s.tb.divInt ∧ divider (.tbDiv .external) s.tb.divExt ∧
      divider (.tbDiv .holdover) s.tb.divHold ∧ bits .tbTrim 0 5 = s.tb.trim ∧
      readReg .time s = s.tb.time) ∧
    (bits .pmemPtr 0 12 = s.ptr.addr ∧ bit .pmemPtr 31 = s.ptr.autoInc ∧
      (s.init = none → readReg .pmemData s = s.pmem.read s.ptr.addr) ∧
      readReg .lqDesc0 s = s.staging.desc0 ∧ readReg .lqDesc1 s = s.staging.desc1 ∧
      readReg .lqTime s = s.staging.time) ∧
    (∀ n : LaneId,
      let l := s.lane n
      bits (.laneCfg n) 0 2 = level l.cfg.idle ∧ bits (.laneCfg n) 2 2 = level l.cfg.fault ∧
      (bit (.laneCfg n) 4 = true ↔ l.cfg.policy = .fault) ∧ bit (.laneCfg n) 5 = l.cfg.guard ∧
      bits (.laneStatus n) 0 3 =
        (match l.state with
          | .idle => 0#3 | .armed => 1#3 | .running => 2#3 | .waiting => 3#3 | .faulted => 4#3) ∧
      bits (.laneStatus n) 4 3 = BitVec.ofNat 3 l.queue.pending.length ∧
      bit (.laneStatus n) 7 = l.queue.active.isSome ∧
      bits (.laneStatus n) 8 3 = BitVec.ofNat 3 l.queue.awaiting.length ∧
      bit (.laneStatus n) 12 = l.splicePending ∧ bit (.laneStatus n) 13 = l.stopPending ∧
      bits (.laneStatus n) 20 3 = BitVec.ofNat 3 l.stack.length ∧
      bit (.laneStatus n) 24 = LaneSet.has (s.group .g0).arrived n ∧
      bit (.laneStatus n) 25 = LaneSet.has (s.group .g1).arrived n ∧
      bit (.laneStatus n) 26 = l.holdoverSeen ∧
      bits (.laneStep n) 0 20 = l.remaining ∧ bits (.laneStep n) 20 12 = l.stepAddr ∧
      bits (.lanePass n) 0 16 = l.passesDone ∧
      bits (.lanePass n) 16 8 = (match l.queue.active with | some a => a.desc.tag | none => 0)) ∧
    ((∀ g : GroupId, bits (.groupMembers g) 0 6 = (s.group g).members) ∧
      bits .groupStatus 0 6 = (s.group .g0).arrived ∧
      bits .groupStatus 8 6 = (s.group .g1).arrived ∧
      bits .groupStatus 16 8 = (s.group .g0).count.setWidth 8 ∧
      bits .groupStatus 24 8 = (s.group .g1).count.setWidth 8) ∧
    (∀ x : CarrierId,
      let c := s.carrier x
      bit (.carCtrl x) 0 = c.enable ∧ bits (.carCtrl x) 4 4 = c.prescale ∧
      (bit (.carCtrl x) 8 = true ↔ c.phase = .high) ∧
      bits (.carWidth x) 16 8 = c.inUse.low ∧ bits (.carWidth x) 24 8 = c.inUse.high ∧
      (c.pair = none → bits (.carWidth x) 0 16 = 0) ∧
      ∀ p, c.pair = some p → bits (.carWidth x) 0 8 = p.low ∧ bits (.carWidth x) 8 8 = p.high) ∧
    (∀ i : LineId,
      let l := s.input i
      bits (.inCfg i) 0 3 = l.filter ∧ bits (.inCfg i) 4 3 = l.divider ∧
      bits (.inCfg i) 8 2 = edges l.trigger ∧ bits (.inCfg i) 10 2 = edges l.capture ∧
      bits (.inCfg i) 12 3 = l.tagCode ∧
      (bit .inLevel i.num = true ↔ l.accepted = some .high) ∧
      bit .inLevel (4 + i.num) = l.accepted.isSome) ∧
    (bits .capqStatus 0 6 = BitVec.ofNat 6 s.capq.records.length ∧
      bits .capqStatus 8 5 = s.capq.threshold ∧ bits .capqStatus 16 8 = s.capq.gap ∧
      bits .evqStatus 0 6 = BitVec.ofNat 6 s.evq.placed.length ∧
      bits .evqStatus 8 5 = BitVec.ofNat 5 s.evq.deferral.length ∧
      bits .evqStatus 16 8 = s.evq.dropped) ∧
    (s.capq.records = [] → ∀ r ∈ [Reg.capqHead0, .capqHead1, .capqHead2], readReg r s = 0) ∧
    (s.evq.placed = [] →
      ∀ r ∈ [Reg.evqHead0, .evqHead1, .evqHead2, .evqHead3], readReg r s = 0) ∧
    ∀ row ∈
      ([(.hostStatus, 0xFF), (.cmdResult, 0x7F0F), (.intStatus, 0x1F), (.intEnable, 0x1F),
        (.portErr, 0x7F07), (.tbCtrl, 1), (.tbStatus, 0x3FFFF7), (.tbDiv .internal, 0x3FF),
        (.tbDiv .external, 0x3FF), (.tbDiv .holdover, 0x3FF), (.tbTrim, 0x1F),
        (.pmemPtr, 0x80000FFF), (.groupStatus, 0xFFFF3F3F), (.inLevel, 0xFF),
        (.capqStatus, 0xFF1F3F), (.evqStatus, 0xFF1F3F)] : List (Reg × Word)) ++
      [GroupId.g0, .g1].map (fun g => (Reg.groupMembers g, 0x3F)) ++
      [CarrierId.a, .b].map (fun x => (Reg.carCtrl x, 0x1F1)) ++
      LineId.all.map (fun i => (Reg.inCfg i, 0x7F77)) ++
      LaneId.all.flatMap (fun n =>
        [(Reg.laneCfg n, 0x3F), (.laneStatus n, 0x77F37F7), (.lanePass n, 0xFFFFFF)]),
      readReg row.1 s &&& ~~~row.2 = 0

/-- ID (R173): read-only, reading 0614_0100h in every state. -/
def Obligations.IdReadsItsNumber : Prop :=
  regAt 0x00 = some .id ∧ Reg.id.access = .ro ∧
  (∀ s : State, readReg .id s = 0x06140100 ∧ (readAt 0x00 s).port.lastRead = some 0x06140100 ∧
    (readReg .id s).extractLsb' 16 16 = 0x0614 ∧ (readReg .id s).extractLsb' 8 8 = 0x01 ∧
    (readReg .id s).extractLsb' 0 8 = 0x00) ∧
  ∀ (w : Word) (s t : State), exec (.readOnlyWrite 0x00 w) s = .next t →
    readReg .id t = 0x06140100

/-! ## Resets and INIT -/

/-- POR: every block in its POR state, INIT begun with nothing cleared, and each byte of the memory
a free value. State.reset is such a state (log 4). Four clauses are the model's choice and no
rule's: the levels on the pins stand (log 7), the set handed on is INTERNAL and the periods within a
carrier clock are 0 (log 6), and no word has been shifted out (log 8). -/
def Obligations.PowerOnReset : Prop :=
  (State.reset.AtReset ∧ State.reset.init = some 0 ∧ State.reset.pmem.cleared = 0 ∧
    (∀ k, State.reset.pmem.readByte k = Config.powerUpByte State.reset.pmem.boot k) ∧
    State.reset.pending = []) ∧
  ∀ s : State, ∃ t, exec .por s = .next t ∧ t.AtReset ∧ t.init = some 0 ∧ t.pmem.cleared = 0 ∧
    (∀ k, t.pmem.readByte k = Config.powerUpByte t.pmem.boot k) ∧
    t.pmem.boot = s.pmem.boot + 1 ∧ (∀ i, (t.input i).pin = (s.input i).pin) ∧
    t.port.csnLow = s.port.csnLow ∧ t.port.rstnLow = s.port.rstnLow

/-- RSTN: the fall discards the tick in progress and the frame in progress and holds the part; the
release sets every block's RSTN-reset state, ends INIT where it stands and keeps every byte of the
memory. The model's choice and no rule's: that the discarded tick counts 0 while the part is held
(log 14), that the set handed on is INTERNAL and the periods within a carrier clock are 0 after the
release (log 6), that no word has been shifted out (log 8), and that the levels on the pins stand
(log 7). -/
def Obligations.RstnHoldAndRelease : Prop :=
  (∀ s : State, exec .rstnAssert s = .next
    { s with
      tb := { s.tb with tick := { s.tb.tick with count := 0 } }
      port := { s.port with rstnLow := true, frame := none } }) ∧
  ∀ s : State, ∃ t, exec .rstnReset s = .next t ∧ t.AtReset ∧ t.init = none ∧ t.pmem = s.pmem ∧
    t.port.rstnLow = false ∧ t.port.csnLow = s.port.csnLow ∧
    ∀ i, (t.input i).pin = (s.input i).pin

/-- SOFT_RESET outside INIT: lanes IDLE with empty queues and their configuration kept, arrived sets
and both record queues emptied, the sticky causes cleared, CMD_RESULT OK with index 02h, and all
else, the memory, the timebase and the carriers among it, kept. The fields ownDue, sinceBoundary and
sight are the model's own (logs 2, 16 and 17), and that a boundary's own event still due yet comes
is its choice (log 19). -/
def Obligations.SoftResetKeepsConfiguration : Prop :=
  ∀ s : State, s.portListens = true → s.init = none →
    exec .softReset s = .next
      { s with
        lanes := PerLane.build fun n =>
          { state := .idle, stepAddr := 0, remaining := 0, level := none, rest := .cfgIdle
            stack := [], zeroRun := 0, passesDone := 0, splicePending := false
            stopPending := false, waitSource := none, waitStrict := false, waitSatisfied := false
            cause := none, holdoverSeen := false, boundaryTaken := false
            ownDue := (s.lane n).ownDue, sinceBoundary := false, sight := none
            cfg := (s.lane n).cfg, gate := .closed, trail := none
            queue := ⟨[], none, []⟩ }
        groups := PerGroup.build fun g => { s.group g with arrived := 0 }
        tb := { s.tb with record := none }
        staging := ⟨0, 0, 0⟩
        capq := ⟨[], 0, s.capq.threshold⟩
        evq := ⟨[], [], 0⟩
        ints := ⟨false, false, false, s.ints.enable⟩
        port := { (s.wordAt .write 0x02).port with
          cmdResult := ⟨.ok, 0x02⟩, portErr := ⟨.none, 0x00⟩ } }

/-- INIT_CLEAR: the next entry reads 0, every other byte reads as before, and INIT ends with entry
FFFh. That the command is taken as the sender's word during the start-up interval too, and that
outside INIT it changes nothing, is the model's choice (log 12). -/
def Obligations.InitClearsOneEntry : Prop :=
  (∀ (s : State) (k : Nat), s.init = some k → s.pmem.wf = true → s.pmem.cleared < 4096 →
    ∃ m : Pmem, exec .initClear s = .next
        { s with pmem := m, init := if s.pmem.cleared = 4095 then none else some 224 } ∧
      m.wf = true ∧ m.cleared = s.pmem.cleared + 1 ∧
      m.read (BitVec.ofNat 12 s.pmem.cleared) = 0 ∧
      ∀ b, b < 4 * s.pmem.cleared ∨ 4 * s.pmem.cleared + 4 ≤ b →
        m.readByte b = s.pmem.readByte b) ∧
  ∀ s : State, s.init = none → exec .initClear s = .next s

/-- While RSTN is held low the part takes no command and no event, but for the resets, INIT and what
outside does to CSN and the IN pins, whose levels the model keeps as outside gives them (log 7); SDO
is in its high-impedance state, and IRQN is released (R160). -/
def Obligations.HeldPartTakesNoEvent : Prop :=
  (∀ (c : Instr) (s : State), s.port.rstnLow = true → c ≠ .por → c ≠ .initClear →
    c ≠ .rstnAssert → c ≠ .rstnReset → c ≠ .frameStart → c ≠ .frameEnd →
    (∀ cut, c ≠ .shortFrame cut) → (∀ i v, c ≠ .inPinChange i v) → exec c s = .next s) ∧
  ∀ s : State, s.port.rstnLow = true → s.sdoHighz = true ∧ s.irqnLow = false ∧
    exec .frameStart s = .next { s with port := { s.port with csnLow := true } } ∧
    ∀ cut, exec (.shortFrame cut) s =
      .next { s with port := { s.port with csnLow := false, frame := none } }

/-! ## Frames and accesses -/

/-- FRAME_START takes the status byte, bit by bit as R167 and R175 give it; FRAME_END ends the
frame; SDO is driven between them and high-impedance after. The command byte carries the direction
in bit 7 and the index in the bits below. A data word goes on with the frame in progress at its
index, which then advances by one, 7Fh to 00h, but stays at PMEM_DATA; a read frame passes over
plain reads, which have no row. A word in the other direction, or at an index the frame has not come
to, is the first of a new frame with a status byte and a command byte of its own: that the model
ends the one frame and begins the other there, and that a word with no frame is a whole frame, is
its choice (log 12); and that a read word goes on with a frame over the plain reads between, which
are no commands, is its choice too (log 8). IRQN is driven low as bit 6 shows (R160). -/
def Obligations.FrameEdges : Prop :=
  (∀ s : State, s.port.rstnLow = false → ∃ b : Byte,
    exec .frameStart s = .next
      { s with port := { s.port with csnLow := true, frame := some ⟨b, none, none⟩ } } ∧
    (b.getLsbD 7 = true ↔ s.init.isSome = true) ∧
    (b.getLsbD 6 = true ↔
      (s.evq.placed ≠ [] ∧ s.ints.enable.getLsbD 0 = true) ∨
      (s.ints.evqDrop = true ∧ s.ints.enable.getLsbD 1 = true) ∨
      (s.capq.level ≤ s.capq.records.length ∧ s.ints.enable.getLsbD 2 = true) ∨
      (s.ints.capqGap = true ∧ s.ints.enable.getLsbD 3 = true) ∨
      (s.ints.portError = true ∧ s.ints.enable.getLsbD 4 = true)) ∧
    b.getLsbD 6 = s.irqnLow ∧
    (b.getLsbD 5 = true ↔ s.evq.placed ≠ []) ∧ (b.getLsbD 4 = true ↔ s.capq.records ≠ []) ∧
    (b.getLsbD 3 = true ↔ s.ints.portError = true) ∧
    (b.getLsbD 2 = true ↔ s.port.cmdResult.code ≠ .ok) ∧ b.extractLsb' 0 2 = 1) ∧
  (∀ s : State, exec .frameEnd s =
    .next { s with port := { s.port with csnLow := false, frame := none } }) ∧
  (∀ s t : State, (exec .frameEnd s = .next t → t.sdoHighz = true) ∧
    (s.port.rstnLow = false → exec .frameStart s = .next t → t.sdoHighz = false)) ∧
  (∀ (b : Byte) (dir : Direction) (i : Index),
    (commandDirection b = .write ↔ b.getLsbD 7 = true) ∧ commandIndex b = b.extractLsb' 0 7 ∧
    commandDirection (commandByte dir i) = dir ∧ commandIndex (commandByte dir i) = i) ∧
  ∀ (dir : Direction) (i : Index) (s : State),
    let next : Index := if i = 0x11 then i else i + 1
    let with_ (f : Option PortFrame) : State := { s with port := { s.port with frame := f } }
    let sameFrame (b : Byte) : State := with_ (some ⟨b, some dir, some next⟩)
    let newFrame : State := sameFrame s.statusByte
    (s.port.frame = none → s.wordAt dir i = s) ∧
    (∀ b, s.port.frame = some ⟨b, none, none⟩ → s.wordAt dir i = sameFrame b) ∧
    (∀ b, s.port.frame = some ⟨b, some dir, some i⟩ → s.wordAt dir i = sameFrame b) ∧
    (∀ b d c, s.port.frame = some ⟨b, some d, some c⟩ → d ≠ dir → s.wordAt dir i = newFrame) ∧
    (∀ b c, s.port.frame = some ⟨b, some .write, some c⟩ → c ≠ i → s.wordAt dir i = newFrame) ∧
    (∀ b c, s.port.frame = some ⟨b, some .read, some c⟩ → dir = .read → c ≠ i →
      (regAt c = none ∨ c = 0x11 → s.wordAt dir i = newFrame) ∧
      (regAt c ≠ none → c ≠ 0x11 →
        s.wordAt dir i = (with_ (some ⟨b, some .read, some (c + 1)⟩)).wordAt dir i))

/-- SHORT_FRAME: the frame ends, PORT_ERROR is set, and the cause latched, if PORT_ERROR was clear,
is SHORT_FRAME, or that of the cut read's own error, which came before it (log 14). Nothing else
changes, the pointer and the memory among it. -/
def Obligations.ShortFrameIsAPortError : Prop :=
  ∀ (cut : Cut) (s : State), s.portListens = true →
    let err : PortErr :=
      match cut with
      | .commandByte => ⟨.shortFrame, 0x00⟩
      | .dataWord .write i => ⟨.shortFrame, i⟩
      | .dataWord .read i =>
        if regAt i = none then ⟨.badIndex, i⟩
        else if i = 0x11 ∧ s.init ≠ none then ⟨.initAccess, i⟩ else ⟨.shortFrame, i⟩
    exec (.shortFrame cut) s = .next
      { s with
        ints := { s.ints with portError := true }
        port := { s.port with
          csnLow := false, frame := none
          portErr := if s.ints.portError then s.port.portErr else err } }

/-- An access at an index not in the map, and a write of a read-only register: a port error, latched
if PORT_ERROR was clear; the read shifts out 0; nothing else changes but the frame's index. -/
def Obligations.AccessErrors : Prop :=
  (∀ (i : Index) (w : Word) (s : State), s.portListens = true → regAt i = none →
    exec (.badIndex .write i w) s = .next
      { s with
        ints := { s.ints with portError := true }
        port := { (s.wordAt .write i).port with
          portErr := if s.ints.portError then s.port.portErr else ⟨.badIndex, i⟩ } } ∧
    exec (.badIndex .read i w) s = .next
      { s with
        ints := { s.ints with portError := true }
        port := { (s.wordAt .read i).port with
          portErr := if s.ints.portError then s.port.portErr else ⟨.badIndex, i⟩
          lastRead := some 0 } }) ∧
  ∀ (i : Index) (w : Word) (r : Reg) (s : State), s.portListens = true → regAt i = some r →
    r.access = .ro →
    exec (.readOnlyWrite i w) s = .next
      { s with
        ints := { s.ints with portError := true }
        port := { (s.wordAt .write i).port with
          portErr := if s.ints.portError then s.port.portErr else ⟨.readOnly, i⟩ } }

/-- REGISTER_WRITE of the pointer, the staging registers, the divider sets and TB_CTRL: each stores
its word or its fields, and nothing else changes but the frame's index. -/
def Obligations.PlainRegisterWrites : Prop :=
  ∀ (w : Word) (s : State), s.portListens = true →
    exec (.registerWrite 0x10 w) s = .next
      { s.wordAt .write 0x10 with ptr := ⟨w.extractLsb' 0 12, w.getLsbD 31⟩ } ∧
    exec (.registerWrite 0x14 w) s = .next
      { s.wordAt .write 0x14 with staging := { s.staging with desc0 := w } } ∧
    exec (.registerWrite 0x15 w) s = .next
      { s.wordAt .write 0x15 with staging := { s.staging with desc1 := w } } ∧
    exec (.registerWrite 0x16 w) s = .next
      { s.wordAt .write 0x16 with staging := { s.staging with time := w } } ∧
    exec (.registerWrite 0x0A w) s = .next
      { s.wordAt .write 0x0A with
        tb := { s.tb with divInt := ⟨w.extractLsb' 8 2, w.extractLsb' 0 8⟩ } } ∧
    exec (.registerWrite 0x0B w) s = .next
      { s.wordAt .write 0x0B with
        tb := { s.tb with divExt := ⟨w.extractLsb' 8 2, w.extractLsb' 0 8⟩ } } ∧
    exec (.registerWrite 0x0C w) s = .next
      { s.wordAt .write 0x0C with
        tb := { s.tb with divHold := ⟨w.extractLsb' 8 2, w.extractLsb' 0 8⟩ } } ∧
    exec (.registerWrite 0x08 w) s = .next
      { s.wordAt .write 0x08 with tb := { s.tb with autoRearm := w.getLsbD 0 } }

/-- An op code outside 1 to 5 is refused: with INIT_BUSY during INIT, and with BAD_COMMAND outside
it, whatever the lane number. Nothing changes but CMD_RESULT and the frame's index. -/
def Obligations.UndefinedOpsAreRefused : Prop :=
  (∀ (w : Word) (s : State), s.portListens = true →
    (w.extractLsb' 0 4 = 0 ∨ 6 ≤ (w.extractLsb' 0 4).toNat) →
    exec (.registerWrite 0x02 w) s = .next
      { s with
        port := { (s.wordAt .write 0x02).port with
          cmdResult := ⟨if s.init = none then .badCommand else .initBusy, 0x02⟩ } }) ∧
  ∀ (op : BitVec 4) (lane : BitVec 3) (s : State), s.portListens = true →
    (op = 0 ∨ 6 ≤ op.toNat) →
    exec (.laneCmdBadCommand op lane) s = .next
      { s with
        port := { (s.wordAt .write 0x03).port with
          cmdResult := ⟨if s.init = none then .badCommand else .initBusy, 0x03⟩ } }

/-- PMEM_DATA outside INIT: a write stores its word in the entry at the pointer and changes no other
byte; a read shifts out that entry's word and changes none. Both move the pointer on by one, FFFh to
000h, where auto-increment is set. A lane that has begun no step at the boundary last handed on
fetches the new word; one that has fetches what it fetched before, so that the write comes behind
all it begins there (R19). The field sight, which remembers that, is the model's own (log 17). -/
def Obligations.PatternWindowAccesses : Prop :=
  ∀ (w : Word) (s : State), s.portListens = true → s.init = none → s.pmem.wf = true →
    let next : PmemPtr := ⟨if s.ptr.autoInc then s.ptr.addr + 1 else s.ptr.addr, s.ptr.autoInc⟩
    (∃ m : Pmem, exec (.pmemDataWrite w) s = .next
        { s.wordAt .write 0x11 with
          pmem := m, ptr := next
          lanes := PerLane.build fun n =>
            { s.lane n with
              sight := (s.lane n).sight.map fun kept =>
                if s.ptr.addr ∈ kept.map (fun e => e.1) then kept
                else (s.ptr.addr, s.pmem.read s.ptr.addr) :: kept } } ∧
      m.read s.ptr.addr = w ∧ m.wf = true ∧ m.cleared = s.pmem.cleared ∧
      ∀ b, b < 4 * s.ptr.addr.toNat ∨ 4 * s.ptr.addr.toNat + 4 ≤ b →
        m.readByte b = s.pmem.readByte b) ∧
    (∀ n a, (s.lane n).sight = none → s.fetchWord n a = s.pmem.read a) ∧
    (∀ n, (s.lane n).sight = some [] → ∀ a, s.fetchWord n a = s.pmem.read a) ∧
    (∀ t n a, exec (.pmemDataWrite w) s = .next t →
      ((s.lane n).sight = none → t.fetchWord n a = if a = s.ptr.addr then w else s.pmem.read a) ∧
      ((s.lane n).sight ≠ none → t.fetchWord n a = s.fetchWord n a)) ∧
    exec .pmemDataRead s = .next
      { s with
        ptr := next
        port := { (s.wordAt .read 0x11).port with
          lastRead := some (s.pmem.read s.ptr.addr) } }

/-- INIT: PMEM_DATA accesses are port errors with cause INIT_ACCESS that change no byte and do not
move the pointer, the read shifting out 0; and every global and lane command is refused with
INIT_BUSY. -/
def Obligations.InitClosesTheWindow : Prop :=
  ∀ s : State, s.portListens = true → s.init ≠ none →
    (∀ w, exec (.pmemDataWrite w) s = .next
      { s with
        ints := { s.ints with portError := true }
        port := { (s.wordAt .write 0x11).port with
          portErr := if s.ints.portError then s.port.portErr else ⟨.initAccess, 0x11⟩ } }) ∧
    exec .pmemDataRead s = .next
      { s with
        ints := { s.ints with portError := true }
        port := { (s.wordAt .read 0x11).port with
          portErr := if s.ints.portError then s.port.portErr else ⟨.initAccess, 0x11⟩
          lastRead := some 0 } } ∧
    (∀ c ∈ [Instr.softReset, .tbUseInternal, .tbUseExternal, .tbRearm, .capqFlush],
      exec c s = .next
        { s with port := { (s.wordAt .write 0x02).port with cmdResult := ⟨.initBusy, 0x02⟩ } }) ∧
    ∀ lane : BitVec 3, ∀ c ∈ [Instr.submit lane, .stopAtEnd lane, .splice lane, .abort lane,
        .clearFault lane],
      exec c s = .next
        { s with port := { (s.wordAt .write 0x03).port with cmdResult := ⟨.initBusy, 0x03⟩ } }

/-! ## Configuration writes -/

/-- TB_TRIM, INT_ENABLE, CAPQ_STATUS and INT_STATUS store or clear the fields R20, R159, R142 and
R158 name, and report nothing. -/
def Obligations.SettingWrites : Prop :=
  ∀ (w : Word) (s : State), s.portListens = true →
    exec (.tbTrim w) s = .next
      { s.wordAt .write 0x0D with tb := { s.tb with trim := w.extractLsb' 0 5 } } ∧
    exec (.intEnable w) s = .next
      { s.wordAt .write 0x06 with ints := { s.ints with enable := w.extractLsb' 0 5 } } ∧
    exec (.capqStatus w) s = .next
      { s.wordAt .write 0x2B with capq := { s.capq with threshold := w.extractLsb' 8 5 } } ∧
    exec (.intStatus w) s = .next
      { s.wordAt .write 0x05 with
        ints := { s.ints with
          evqDrop := if w.getLsbD 1 then false else s.ints.evqDrop
          capqGap := if w.getLsbD 3 then false else s.ints.capqGap
          portError := if w.getLsbD 4 then false else s.ints.portError } }

/-- LANEn_CFG: refused with LANE_BUSY in ARMED, RUNNING and WAITING, and with BAD_FIELD for a level
code 3; else all four settings are stored, and a guard set to off ends the lane's trail. -/
def Obligations.LaneCfgWrite : Prop :=
  ∀ (n : LaneId) (w : Word) (s : State), s.portListens = true →
    let i : Index := BitVec.ofNat 7 (0x40 + 4 * n.num)
    let l := s.lane n
    (l.state = .armed ∨ l.state = .running ∨ l.state = .waiting →
      exec (.laneCfg n w) s = .next ((s.wordAt .write i).report .laneBusy i)) ∧
    (l.state = .idle ∨ l.state = .faulted →
      w.extractLsb' 0 2 = 3 ∨ w.extractLsb' 2 2 = 3 →
      exec (.laneCfg n w) s = .next ((s.wordAt .write i).report .badField i)) ∧
    (l.state = .idle ∨ l.state = .faulted →
      w.extractLsb' 0 2 ≠ 3 → w.extractLsb' 2 2 ≠ 3 →
      ∃ c : LaneCfg, c.idle.code = w.extractLsb' 0 2 ∧ c.fault.code = w.extractLsb' 2 2 ∧
        (c.policy = .fault ↔ w.getLsbD 4 = true) ∧ c.guard = w.getLsbD 5 ∧
        exec (.laneCfg n w) s = .next
          (((s.wordAt .write i).setLane n
            { l with cfg := c, trail := if w.getLsbD 5 then l.trail else none }).report .ok i))

/-- GROUPg_MEMBERS: stored while the group holds no lane, and refused with GROUP_BUSY while it
does. -/
def Obligations.GroupMembersWrite : Prop :=
  ∀ (g : GroupId) (w : Word) (s : State), s.portListens = true →
    let i : Index := BitVec.ofNat 7 (0x18 + g.num)
    ((s.group g).arrived = 0 → exec (.groupMembers g w) s = .next
      (((s.wordAt .write i).setGroup g { s.group g with members := w.extractLsb' 0 6 }).report
        .ok i)) ∧
    ((s.group g).arrived ≠ 0 → exec (.groupMembers g w) s = .next
      ((s.wordAt .write i).report .groupBusy i))

/-- CARx_CTRL: an enabled generator refuses another prescale with CARRIER_BUSY, keeps running, or is
disabled, which shuts its gates and ends its trails; a disabled one stores the prescale, and an
enable begins a HIGH phase with any pending pair and opens the gates waiting for it. CARx_WIDTH: a
zero width is refused with BAD_FIELD; else the pair becomes the pending pair. That an enable and a
disable set the periods counted within a carrier clock to 0 is read by inference (log 6). -/
def Obligations.CarrierRegisterWrites : Prop :=
  (∀ (x : CarrierId) (w : Word) (s : State), s.portListens = true →
      let i : Index := match x with | .a => 0x1C | .b => 0x1E
      let c := s.carrier x
      (c.enable = true → w.extractLsb' 4 4 ≠ c.prescale →
        exec (.carCtrl x w) s = .next ((s.wordAt .write i).report .carrierBusy i)) ∧
      (c.enable = true → w.extractLsb' 4 4 = c.prescale → w.getLsbD 0 = true →
        exec (.carCtrl x w) s = .next ((s.wordAt .write i).report .ok i)) ∧
      (c.enable = true → w.extractLsb' 4 4 = c.prescale → w.getLsbD 0 = false →
        exec (.carCtrl x w) s = .next
          { ((s.wordAt .write i).setCarrier x
              { c with enable := false, phase := .low, count := 0, sub := 0 }).report .ok i with
            lanes := PerLane.build fun n =>
              { s.lane n with
                gate :=
                  if (s.lane n).gate = .open x ∨ (s.lane n).gate = .arming x then .shut x
                  else (s.lane n).gate
                trail := if (s.lane n).trail = some x then none else (s.lane n).trail } }) ∧
      (c.enable = false → w.getLsbD 0 = false →
        exec (.carCtrl x w) s = .next
          (((s.wordAt .write i).setCarrier x { c with prescale := w.extractLsb' 4 4 }).report
            .ok i)) ∧
      (c.enable = false → w.getLsbD 0 = true →
        exec (.carCtrl x w) s = .next
          { ((s.wordAt .write i).setCarrier x
              { c with
                enable := true, prescale := w.extractLsb' 4 4
                inUse := (match c.pair with | some p => p | none => c.inUse)
                pair := none, phase := .high, count := 0, sub := 0 }).report .ok i with
            lanes := PerLane.build fun n =>
              { s.lane n with
                gate := if (s.lane n).gate = .arming x then .open x else (s.lane n).gate } })) ∧
  ∀ (x : CarrierId) (w : Word) (s : State), s.portListens = true →
    let i : Index := match x with | .a => 0x1D | .b => 0x1F
    (w.extractLsb' 8 8 = 0 ∨ w.extractLsb' 0 8 = 0 →
      exec (.carWidth x w) s = .next ((s.wordAt .write i).report .badField i)) ∧
    (w.extractLsb' 8 8 ≠ 0 → w.extractLsb' 0 8 ≠ 0 →
      exec (.carWidth x w) s = .next
        (((s.wordAt .write i).setCarrier x
          { s.carrier x with pair := some ⟨w.extractLsb' 8 8, w.extractLsb' 0 8⟩ }).report .ok i))

/-- INn_CFG: all five settings are stored; a changed filter count or divider restarts the sample
clock and the run, and else both go on. Nothing is reported. -/
def Obligations.InputCfgWrite : Prop :=
  ∀ (n : LineId) (w : Word) (s : State), s.portListens = true →
    let i : Index := BitVec.ofNat 7 (0x20 + n.num)
    let l := s.input n
    let same := w.extractLsb' 0 3 = l.filter ∧ w.extractLsb' 4 3 = l.divider
    ∃ trigger capture : EdgeSet, trigger.code = w.extractLsb' 8 2 ∧
      capture.code = w.extractLsb' 10 2 ∧
      exec (.inCfg n w) s = .next
        ((s.wordAt .write i).setInput n
          { l with
            filter := w.extractLsb' 0 3, divider := w.extractLsb' 4 3
            trigger := trigger, capture := capture, tagCode := w.extractLsb' 12 3
            sampleCount := if same then l.sampleCount else 0
            runCount := if same then l.runCount else 0 })

/-! ## Record queues -/

/-- CAPQ_POP removes the head record, or is refused with EMPTY, whatever word is written;
CAPQ_FLUSH removes every record and clears the gap count, and keeps the threshold and CAPQ_GAP. -/
def Obligations.CaptureQueueCommands : Prop :=
  (∀ (w : Word) (s : State), s.portListens = true →
    (s.capq.records = [] → exec (.capqPop w) s = .next ((s.wordAt .write 0x2C).report .empty 0x2C)) ∧
    ∀ r rest, s.capq.records = r :: rest →
      exec (.capqPop w) s = .next
        { (s.wordAt .write 0x2C).report .ok 0x2C with capq := { s.capq with records := rest } }) ∧
  ∀ s : State, s.portListens = true → s.init = none →
    exec .capqFlush s = .next
      { (s.wordAt .write 0x02).report .ok 0x02 with
        capq := { s.capq with records := [], gap := 0 } }

/-- EVQ_POP, whatever word is written: EMPTY on an empty queue; else the head leaves, and the first
deferred record, if any, is placed at the back in the same event with the dropped count, its slot
leaving its lane's queue or the TIMEBASE record ceasing to be pending. -/
def Obligations.EventQueuePop : Prop :=
  ∀ (w : Word) (s : State), s.portListens = true →
    let s1 := (s.wordAt .write 0x35).report .ok 0x35
    (s.evq.placed = [] →
      exec (.evqPop w) s = .next ((s.wordAt .write 0x35).report .empty 0x35)) ∧
    (∀ r rest, s.evq.placed = r :: rest → s.evq.deferral = [] →
      exec (.evqPop w) s = .next { s1 with evq := { s.evq with placed := rest } }) ∧
    (∀ r rest n more h hs, s.evq.placed = r :: rest → s.evq.deferral = .lane n :: more →
      (s.lane n).queue.awaiting = h :: hs →
      exec (.evqPop w) s = .next
        { s1.setLane n
            { s.lane n with queue := { (s.lane n).queue with awaiting := hs } } with
          evq :=
            { placed := rest ++ [{ h.record with droppedBefore := s.evq.dropped }]
              deferral := more, dropped := 0 } }) ∧
    ∀ r rest more (b : TimebaseRecord), s.evq.placed = r :: rest →
      s.evq.deferral = .timebase :: more → s.tb.record = some b →
      exec (.evqPop w) s = .next
        { s1 with
          tb := { s.tb with record := none }
          evq :=
            { placed :=
                rest ++ [⟨b.time, s.evq.dropped, .timebase b.state b.losses b.locks⟩]
              deferral := more, dropped := 0 } }

/-- Offers to the Event Queue. With room and an empty deferral list every record is placed at the
back with the dropped count, which goes to 0. Else an informational record is dropped, counted, and
sets EVQ_DROP; a terminal record waits in a slot at the back of its lane's queue; and a loss or a
lock waits at the TBU, or updates the record pending there. The entries deferred at one event stand
behind those of earlier events, in ascending lane number, the timebase last
(how one event sorts them is read by inference, log 14). -/
def Obligations.EventOffersAndDeferral : Prop :=
  (∀ (b : EventBody) (s : State), s.evq.placed.length < 32 → s.evq.deferral = [] →
    let q : EventQueue := ⟨s.evq.placed ++ [⟨s.tb.time, s.evq.dropped, b⟩], [], 0⟩
    offerInfo b s = { s with evq := q } ∧
    (∀ n d, postTerminal n d b s = { s with evq := q }) ∧
    ∀ st loss lock, s.tb.record = none →
      b = .timebase st (if loss then 1 else 0) (if lock then 1 else 0) →
      recordTimebase st loss lock s = { s with evq := q }) ∧
  (∀ (b : EventBody) (s : State), 32 ≤ s.evq.placed.length ∨ s.evq.deferral ≠ [] →
    offerInfo b s =
      { s with
        evq := { s.evq with
          dropped := if s.evq.dropped = 255 then 255 else s.evq.dropped + 1 }
        ints := { s.ints with evqDrop := true } } ∧
    (∀ n d, postTerminal n d b s =
      { s.setLane n
          { s.lane n with
            queue := { (s.lane n).queue with
              awaiting := (s.lane n).queue.awaiting ++ [⟨d, ⟨s.tb.time, 0, b⟩⟩] } } with
        evq := { s.evq with deferral := s.evq.deferral ++ [.lane n] } }) ∧
    ∀ st loss lock, s.tb.record = none →
      recordTimebase st loss lock s =
        { s with
          tb := { s.tb with
            record := some
              ⟨st, if loss then 1 else 0, if lock then 1 else 0, s.tb.time⟩ }
          evq := { s.evq with deferral := s.evq.deferral ++ [.timebase] } }) ∧
  (∀ (st : TbState) (loss lock : Bool) (r : TimebaseRecord) (s : State), s.tb.record = some r →
    recordTimebase st loss lock s =
      { s with
        tb := { s.tb with
          record := some
            ⟨st, if loss = true ∧ r.losses ≠ 255 then r.losses + 1 else r.losses,
              if lock = true ∧ r.locks ≠ 255 then r.locks + 1 else r.locks, s.tb.time⟩ } }) ∧
  ∀ (s t : State) (added : List DeferralEntry), t.evq.deferral = s.evq.deferral ++ added →
    ∃ sorted, (settle s t).evq.deferral = s.evq.deferral ++ sorted ∧ sorted.Perm added ∧
      sorted.Pairwise fun d e =>
        match d, e with
        | .lane n, .lane m => n.num ≤ m.num
        | .lane _, .timebase => True
        | .timebase, .lane _ => False
        | .timebase, .timebase => True

/-- The words of the event record and of the capture record at the head of their queues, and the
fault cause LANEn_STATUS shows, by the positions and codes of R179 and R180. The tag 0 of a record
that carries none and the lengths are R146's, that EVQ_HEAD3 reads 0 for a record of length 3 is
R155's, and that CAPQ_HEAD2 reads 0 for an untagged record is R140's. That bits 23 to 19 of a
header, which are no field of R179, read 0 is read by inference (log 21). -/
def Obligations.RecordWordsAtTheHeads : Prop :=
  (∀ (s : State) (r : EventRecord) (rest : List EventRecord), s.evq.placed = r :: rest →
      let w0 := readReg .evqHead0 s
      let w2 := readReg .evqHead2 s
      let w3 := readReg .evqHead3 s
      readReg .evqHead1 s = r.time ∧ w0.extractLsb' 8 8 = r.droppedBefore ∧ w0.extractLsb' 19 5 = 0 ∧
      match r.body with
      | .done n tag d =>
        w0.extractLsb' 28 4 = 1 ∧ (w0.extractLsb' 24 4).toNat = n.num ∧ w0.extractLsb' 0 8 = tag ∧
        w0.extractLsb' 16 3 = (if d.lateness = 0 then 3 else 4) ∧
        w2.extractLsb' 0 16 = d.passes ∧ w2.getLsbD 16 = d.stopped ∧ w2.getLsbD 17 = d.spliced ∧
        (w2.getLsbD 18 = true ↔ d.lateness ≠ 0) ∧ w2.getLsbD 19 = d.holdover ∧
        w3.extractLsb' 0 16 = d.lateness
      | .aborted n tag passes reason addr =>
        w0.extractLsb' 28 4 = 2 ∧ (w0.extractLsb' 24 4).toNat = n.num ∧ w0.extractLsb' 0 8 = tag ∧
        w0.extractLsb' 16 3 = 3 ∧ w2.extractLsb' 0 16 = passes ∧ w2.extractLsb' 16 12 = addr ∧
        w3 = 0 ∧
        w2.extractLsb' 28 4 =
          (match reason with
            | .hostAbort => 0#4 | .flushed => 1#4
            | .fault .badStep => 8#4 | .fault .stackOverflow => 9#4 | .fault .nestError => 10#4
            | .fault .runaway => 11#4 | .fault .waitTimeout => 12#4
            | .fault .barrierBroken => 13#4 | .fault .notMember => 14#4
            | .fault .refLost => 15#4)
      | .mark n tag addr =>
        w0.extractLsb' 28 4 = 3 ∧ (w0.extractLsb' 24 4).toNat = n.num ∧ w0.extractLsb' 0 8 = tag ∧
        w0.extractLsb' 16 3 = 3 ∧ w2.extractLsb' 0 12 = addr ∧ w3 = 0
      | .waitTimeout n tag addr source =>
        w0.extractLsb' 28 4 = 4 ∧ (w0.extractLsb' 24 4).toNat = n.num ∧ w0.extractLsb' 0 8 = tag ∧
        w0.extractLsb' 16 3 = 3 ∧ w2.extractLsb' 0 12 = addr ∧ w3 = 0 ∧
        w2.extractLsb' 16 4 =
          (match source with
            | .line .in0 => 0#4 | .line .in1 => 1#4 | .line .in2 => 2#4 | .line .in3 => 3#4
            | .group .g0 => 4#4 | .group .g1 => 5#4)
      | .groupReleased g lanes count =>
        w0.extractLsb' 28 4 = 5 ∧ (w0.extractLsb' 24 4).toNat = 9 + g.num ∧
        w0.extractLsb' 0 8 = 0 ∧ w0.extractLsb' 16 3 = 3 ∧
        w2.extractLsb' 0 6 = lanes ∧ w2.extractLsb' 16 16 = count ∧ w3 = 0
      | .timebase st losses locks =>
        w0.extractLsb' 28 4 = 6 ∧ w0.extractLsb' 24 4 = 8 ∧ w0.extractLsb' 0 8 = 0 ∧
        w0.extractLsb' 16 3 = 3 ∧ w2.extractLsb' 8 8 = losses ∧ w2.extractLsb' 16 8 = locks ∧
        w3 = 0 ∧
        w2.extractLsb' 0 3 =
          (match st with
            | .internal => 0#3 | .qualifying => 1#3 | .external => 2#3 | .holdover => 3#3
            | .requalifying => 4#3)) ∧
  (∀ (s : State) (n : LaneId),
    (readReg (.laneStatus n) s).extractLsb' 16 4 =
      match (s.lane n).cause with
      | none => 0#4
      | some .badStep => 8#4 | some .stackOverflow => 9#4 | some .nestError => 10#4
      | some .runaway => 11#4 | some .waitTimeout => 12#4 | some .barrierBroken => 13#4
      | some .notMember => 14#4 | some .refLost => 15#4) ∧
  ∀ (s : State) (r : CaptureRecord) (rest : List CaptureRecord), s.capq.records = r :: rest →
    let w0 := readReg .capqHead0 s
    let w2 := readReg .capqHead2 s
    w0.extractLsb' 0 2 = (match r.edge with | .rise => 1#2 | .fall => 2#2) ∧
    (w0.extractLsb' 4 2).toNat = r.line.num ∧ w0.getLsbD 6 = r.holdover ∧
    w0.getLsbD 7 = r.snapshot.isSome ∧ w0.extractLsb' 8 8 = r.phase ∧
    w0.extractLsb' 16 8 = r.gap ∧ readReg .capqHead1 s = r.time ∧
    match r.snapshot with
    | none => w2 = 0
    | some p =>
      (w2.extractLsb' 0 3).toNat = p.lane.num ∧ w2.extractLsb' 8 12 = p.addr ∧
      w2.extractLsb' 24 8 = p.tag ∧
      w2.extractLsb' 4 3 =
        (match p.state with
          | .idle => 0#3 | .armed => 1#3 | .running => 2#3 | .waiting => 3#3 | .faulted => 4#3)

/-! ## The timebase -/

/-- TB_USE_EXTERNAL, TB_USE_INTERNAL and TB_REARM, state by state. -/
def Obligations.TimebaseCommands : Prop :=
  ∀ s : State, s.portListens = true → s.init = none →
    let ok := (s.wordAt .write 0x02).report .ok 0x02
    (s.tb.state = .internal →
      exec .tbUseExternal s = .next
        { ok with tb := { s.tb with state := .qualifying, qual := 0, window := 0 } }) ∧
    (s.tb.state ≠ .internal → exec .tbUseExternal s = .next ok) ∧
    (s.tb.state = .internal → exec .tbUseInternal s = .next ok) ∧
    (s.tb.state ≠ .internal →
      exec .tbUseInternal s = .next { ok with tb := { s.tb with switchReq := true } }) ∧
    (s.tb.state = .holdover →
      exec .tbRearm s = .next
        { ok with tb := { s.tb with state := .requalifying, qual := 0, window := 0 } }) ∧
    (s.tb.state ≠ .holdover →
      exec .tbRearm s = .next ((s.wordAt .write 0x02).report .notInHoldover 0x02))

/-- TICK_BOUNDARY: TIME advances by one, the ending tick's set is handed on with the boundary to all
six lanes, a requested switch sets INTERNAL, and the next tick is latched from the state then in
force. The fields ownDue, sinceBoundary and sight are the model's own (logs 2, 16, 17). The boundary
of a REFIN tick is a REFIN edge, and sets the window timer to 0 (log 12). That the switch sets the
timer to 0 is the model's choice (log 15). -/
def Obligations.TickBoundaryEvent : Prop :=
  ∀ s : State, s.port.rstnLow = false →
    let st : TbState := if s.tb.switchReq then .internal else s.tb.state
    let edge : Prop := s.tb.tick.source = .refin ∧ s.tb.state = .external
    exec .tickBoundary s = .next
      { s with
        tb := { s.tb with
          handedSet := s.tb.tick.set, time := s.tb.time + 1
          state := st, switchReq := false
          window := if s.tb.switchReq = true ∨ edge then 0 else s.tb.window
          qual := if s.tb.switchReq then 0 else s.tb.qual
          tick :=
            match st with
            | .external => ⟨.refin, .external, s.tb.divExt, 0⟩
            | .internal | .qualifying => ⟨.iosc, .internal, s.tb.divInt, 0⟩
            | .holdover | .requalifying => ⟨.iosc, .holdover, s.tb.divHold, 0⟩ }
        lanes := PerLane.build fun n =>
          { s.lane n with
            boundaryTaken := false, ownDue := true, sinceBoundary := false, sight := none } }

/-- REFIN_EDGE and LOCK. In INTERNAL and HOLDOVER an edge does nothing. In QUALIFYING and
REQUALIFYING it counts, and the 4096th locks: EXTERNAL, with the lock recorded. In EXTERNAL it sets
the window timer to 0 and counts in a REFIN tick, and the edge that completes the tick is its
boundary. That one command is both events, that LOCK is taken at any count in QUALIFYING and
REQUALIFYING, and that in INTERNAL, EXTERNAL and HOLDOVER it changes nothing, is the model's choice
(log 12). -/
def Obligations.RefinEdgesAndLock : Prop :=
  (∀ s : State, s.port.rstnLow = false →
    (s.tb.state = .internal ∨ s.tb.state = .holdover → exec .refinEdge s = .next s) ∧
    (s.tb.state = .qualifying ∨ s.tb.state = .requalifying → s.tb.qual + 1 < 4096 →
      exec .refinEdge s = .next
        { s with tb := { s.tb with qual := s.tb.qual + 1, window := 0 } }) ∧
    (s.tb.state = .qualifying ∨ s.tb.state = .requalifying → s.tb.qual + 1 = 4096 →
      s.tb.tick.source = .iosc → exec .refinEdge s = exec .lock s) ∧
    (s.tb.state = .external → s.tb.tick.source = .iosc →
      exec .refinEdge s = .next { s with tb := { s.tb with window := 0 } }) ∧
    (s.tb.state = .external → s.tb.tick.source = .refin →
      s.tb.tick.count + 1 < s.tb.tick.div.total →
      exec .refinEdge s = .next
        { s with
          tb := { s.tb with
            window := 0, tick := { s.tb.tick with count := s.tb.tick.count + 1 } } }) ∧
    (s.tb.state = .external → s.tb.tick.source = .refin →
      s.tb.tick.div.total ≤ s.tb.tick.count + 1 →
      exec .refinEdge s = exec .tickBoundary s)) ∧
  ∀ s : State, s.port.rstnLow = false →
    (s.tb.state = .qualifying ∨ s.tb.state = .requalifying →
      exec .lock s = .next
        (recordTimebase .external false true
          { s with tb := { s.tb with state := .external, qual := 4096, window := 0 } })) ∧
    (s.tb.state = .internal ∨ s.tb.state = .external ∨ s.tb.state = .holdover →
      exec .lock s = .next s)

/-- LOSS_DETECTED. In QUALIFYING and REQUALIFYING the count starts again from 0; that in INTERNAL
and HOLDOVER the command changes nothing is the model's choice (log 12). In EXTERNAL the state
becomes HOLDOVER, or REQUALIFYING with AUTO_REARM set, and the tick in progress becomes a whole IOSC
tick on the HOLDOVER set. Exactly these lanes fault: with REF_LOST those whose policy is FAULT and
whose state is ARMED, RUNNING or WAITING, which leave every arrived set first; and with
BARRIER_BROKEN those then held at a group that has one of them as a member, or held at the other
group where one of the lanes so broken is a member. Both sets are emptied, the ABORTED records of
all are offered in ascending lane number, and the loss is recorded behind them. Every other lane and
all else stay. -/
def Obligations.ReferenceLoss : Prop :=
  (∀ s : State, s.port.rstnLow = false →
      (s.tb.state = .qualifying ∨ s.tb.state = .requalifying →
        exec .lossDetected s = .next { s with tb := { s.tb with qual := 0, window := 0 } }) ∧
      (s.tb.state = .internal ∨ s.tb.state = .holdover → exec .lossDetected s = .next s)) ∧
  ∀ s : State, s.port.rstnLow = false → s.tb.state = .external →
    let st : TbState := if s.tb.autoRearm then .requalifying else .holdover
    let lost : LaneId → Bool := fun n =>
      decide ((s.lane n).cfg.policy = .fault) && decide
        ((s.lane n).state = .armed ∨ (s.lane n).state = .running ∨ (s.lane n).state = .waiting)
    let left : GroupId → LaneSet := fun g =>
      (LaneId.all.filter lost).foldl LaneSet.erase (s.group g).arrived
    let first : GroupId → Bool := fun g =>
      decide (left g ≠ 0) && LaneId.all.any fun n => lost n && LaneSet.has (s.group g).members n
    let second : GroupId → Bool := fun g =>
      !first g && decide (left g ≠ 0) && first g.other &&
        LaneId.all.any fun n => LaneSet.has (left g.other) n && LaneSet.has (s.group g).members n
    let broken : GroupId → Bool := fun g => first g || second g
    let held : LaneId → Bool := fun n =>
      (broken .g0 && LaneSet.has (left .g0) n) || (broken .g1 && LaneSet.has (left .g1) n)
    exec .lossDetected s = .next
      (recordTimebase st true false
        (s.postAborted (fun n => if lost n then .refLost else .barrierBroken)
          (LaneId.all.filter fun n => lost n || held n)
          { s with
            tb := { s.tb with
              state := st, qual := 0, window := 0
              tick := ⟨.iosc, .holdover, s.tb.divHold, 0⟩ }
            groups := PerGroup.build fun g =>
              { s.group g with arrived := if broken g then 0 else left g }
            lanes := PerLane.build fun n =>
              if lost n then (s.lane n).faulted .refLost
              else if held n then (s.lane n).faulted .barrierBroken
              else s.lane n }))

/-! ## Lane commands -/

/-- SUBMIT: the first check of R76 that fails refuses the command, and nothing changes but
CMD_RESULT; past every check, at a lane that is ARMED, RUNNING or WAITING, the descriptor staged
joins the back of the lane's queue and the staging registers stay. -/
def Obligations.SubmitChecksAndQueues : Prop :=
  (∀ (lane : BitVec 3) (s : State), s.portListens = true → s.init = none → 6 ≤ lane.toNat →
    exec (.submit lane) s = .next ((s.wordAt .write 0x03).report .badField 0x03)) ∧
  ∀ (lane : BitVec 3) (n : LaneId) (s : State), s.portListens = true → s.init = none →
    lane.toNat = n.num →
    let l := s.lane n
    let start := s.staging.desc1.extractLsb' 0 3
    let selector := s.staging.desc1.extractLsb' 4 3
    let bad : Prop :=
      4 ≤ start.toNat ∨ 4 ≤ (s.staging.desc0.extractLsb' 20 3).toNat ∨
      (start = 3 ∧ 4 ≤ selector.toNat) ∨
      (start = 2 ∧ (2 ≤ selector.toNat ∨
        ∃ g : GroupId, selector.toNat = g.num ∧ LaneSet.has (s.group g).members n = false))
    (l.state = .faulted →
      exec (.submit lane) s = .next ((s.wordAt .write 0x03).report .laneFaulted 0x03)) ∧
    (l.state ≠ .faulted → 4 ≤ l.queue.slots →
      exec (.submit lane) s = .next ((s.wordAt .write 0x03).report .queueFull 0x03)) ∧
    (l.state ≠ .faulted → l.queue.slots < 4 → bad →
      exec (.submit lane) s = .next ((s.wordAt .write 0x03).report .badField 0x03)) ∧
    (l.state = .armed ∨ l.state = .running ∨ l.state = .waiting → l.queue.slots < 4 → ¬ bad →
      ∃ d, s.staging.Holds d ∧
        exec (.submit lane) s = .next
          (((s.wordAt .write 0x03).setLane n
            { l with queue := { l.queue with pending := l.queue.pending ++ [d] } }).report
              .ok 0x03))

/-- SUBMIT at an IDLE lane activates the descriptor: the lane is ARMED at the entry address with its
counts 0 and its level NONE, and start met is set for an IMMEDIATE start and for a start time at a
distance of 0, or of 2^31 and more. It starts no earlier than the boundary after the last one handed
on, its own event for that one still to come or not (sinceBoundary is the model's own field, log
16). -/
def Obligations.SubmitArmsAnIdleLane : Prop :=
  ∀ (lane : BitVec 3) (n : LaneId) (d : Descriptor) (s : State), s.portListens = true →
    s.init = none → lane.toNat = n.num → (s.lane n).state = .idle →
    (s.lane n).queue.pending = [] → (s.lane n).queue.slots < 4 → s.staging.Holds d →
    (∀ g, d.start ≠ .onGroup g) →
    exec (.submit lane) s = .next
      (((s.wordAt .write 0x03).setLane n
        { s.lane n with
          state := .armed, stepAddr := d.entry, remaining := 0, passesDone := 0, zeroRun := 0
          level := none, sinceBoundary := (s.lane n).ownDue
          queue :=
            { (s.lane n).queue with
              active := some
                ⟨d, (match d.start with
                  | .immediate => true
                  | .atTime t =>
                    decide ((t - s.tb.time).toNat = 0 ∨ 2 ^ 31 ≤ (t - s.tb.time).toNat)
                  | .onGroup _ | .onTrigger _ => false), 0⟩
              pending := [] } }).report .ok 0x03)

/-- SUBMIT of an ON_GROUP descriptor at an IDLE lane of the group activates it: the lane is ARMED at
the entry address with its counts 0 and its level NONE. With no member FAULTED this is an arrival:
the lane is held, or, as the last member, releases the group between boundaries: wait satisfied is
set at each WAITING member and start met at each ARMED one, the release counts, and GROUP_RELEASED
is offered. With a member FAULTED the lane faults with BARRIER_BROKEN at the entry address. Every
lane so reached acts at the boundary after the last one handed on, its own event for that one still
to come or not (sinceBoundary is the model's own field, log 16). -/
def Obligations.SubmitArrivesAtGroup : Prop :=
  ∀ (lane : BitVec 3) (n : LaneId) (g : GroupId) (d : Descriptor) (s : State),
    s.portListens = true → s.init = none → lane.toNat = n.num → (s.lane n).state = .idle →
    (s.lane n).queue.pending = [] → (s.lane n).queue.slots < 4 → s.staging.Holds d →
    d.start = .onGroup g → LaneSet.has (s.group g).members n = true →
    let shut : Prop :=
      ∃ m, LaneSet.has (s.group g).members m = true ∧ (s.lane m).state = .faulted
    let s1 := (s.wordAt .write 0x03).report .ok 0x03
    let armed (met : Bool) : Lane :=
      { s.lane n with
        state := .armed, stepAddr := d.entry, remaining := 0, passesDone := 0, zeroRun := 0
        level := none, sinceBoundary := (s.lane n).ownDue
        queue := { (s.lane n).queue with active := some ⟨d, met, 0⟩, pending := [] } }
    let all := LaneSet.insert (s.group g).arrived n
    (shut →
      exec (.submit lane) s = .next
        (settle s (faultLane .barrierBroken n (s1.setLane n (armed false))))) ∧
    (¬ shut → all ≠ (s.group g).members →
      exec (.submit lane) s = .next
        ((s1.setLane n (armed false)).setGroup g { s.group g with arrived := all })) ∧
    (¬ shut → all = (s.group g).members →
      exec (.submit lane) s = .next
        { offerInfo (.groupReleased g all ((s.group g).count + 1)) s1 with
          groups := s.groups.set g
            { s.group g with arrived := 0, count := (s.group g).count + 1 }
          lanes := PerLane.build fun m =>
            if m = n then armed true
            else if LaneSet.has all m = true ∧ (s.lane m).state = .waiting then
              { s.lane m with waitSatisfied := true, sinceBoundary := (s.lane m).ownDue }
            else if LaneSet.has all m = true ∧ (s.lane m).state = .armed then
              { s.lane m with
                sinceBoundary := (s.lane m).ownDue
                queue := { (s.lane m).queue with
                  active := (s.lane m).queue.active.map fun a => { a with startMet := true } } }
            else s.lane m })

/-- STOP_AT_END: NOTHING_ACTIVE in IDLE and FAULTED; stop pending in RUNNING and WAITING; and an
ARMED launch retires at once with DONE STOPPED and the passes done its activation set to 0, its lane
leaving any arrived set: to IDLE, or to ARMED on an IMMEDIATE launch behind it, which is to start at
the next boundary; any other launch behind it is activated between boundaries, its start condition
applied, a failing check of an ON_GROUP one faulting the lane. A launch so activated starts no
earlier than the boundary after the last one handed on, its own event for that one still to come or
not (sinceBoundary is the model's own field, log 16). -/
def Obligations.StopAtEndCommand : Prop :=
  (∀ (lane : BitVec 3) (s : State), s.portListens = true → s.init = none → 6 ≤ lane.toNat →
    exec (.stopAtEnd lane) s = .next ((s.wordAt .write 0x03).report .badField 0x03)) ∧
  ∀ (lane : BitVec 3) (n : LaneId) (s : State), s.portListens = true → s.init = none →
    lane.toNat = n.num →
    let l := s.lane n
    let s1 := (s.wordAt .write 0x03).report .ok 0x03
    (l.state = .idle ∨ l.state = .faulted →
      exec (.stopAtEnd lane) s = .next ((s.wordAt .write 0x03).report .nothingActive 0x03)) ∧
    (l.state = .running ∨ l.state = .waiting →
      exec (.stopAtEnd lane) s = .next (s1.setLane n { l with stopPending := true })) ∧
    ∀ a, l.state = .armed → l.queue.active = some a →
      let out : Lane :=
        { l with
          splicePending := false, stopPending := false, waitSatisfied := false
          waitSource := none, stack := []
          rest :=
            match a.desc.rest, l.level with
            | .low, _ => .low
            | .high, _ => .high
            | .idle, _ => .cfgIdle
            | .last, none => .cfgIdle
            | .last, some .high => .high
            | .last, some _ => .low
          queue := { l.queue with active := none } }
      let s2 := postTerminal n a.desc
        (.done n a.desc.tag ⟨l.passesDone, true, false, false, a.lateness⟩)
        { s1.setLane n out with groups := s.groupsWithout n }
      (l.queue.pending = [] →
        exec (.stopAtEnd lane) s = .next
          (s2.setLane n { s2.lane n with state := .idle, remaining := 0 })) ∧
      (∀ d rest, l.queue.pending = d :: rest → d.start = .immediate →
        exec (.stopAtEnd lane) s = .next
          (s2.setLane n
            { s2.lane n with
              state := .armed, stepAddr := d.entry, remaining := 0, passesDone := 0, zeroRun := 0
              level := none, sinceBoundary := l.ownDue
              queue := { (s2.lane n).queue with active := some ⟨d, true, 0⟩, pending := rest } })) ∧
      ∀ d rest, l.queue.pending = d :: rest →
        ∃ t, s2.Activates n d rest false t [] ∧ exec (.stopAtEnd lane) s = .next (settle s t)

/-- SPLICE: its three checks in order, and splice pending past them. -/
def Obligations.SpliceCommand : Prop :=
  (∀ (lane : BitVec 3) (s : State), s.portListens = true → s.init = none → 6 ≤ lane.toNat →
    exec (.splice lane) s = .next ((s.wordAt .write 0x03).report .badField 0x03)) ∧
  ∀ (lane : BitVec 3) (n : LaneId) (s : State), s.portListens = true → s.init = none →
    lane.toNat = n.num →
    let q := (s.lane n).queue
    let s1 := s.wordAt .write 0x03
    (q.active = none → exec (.splice lane) s = .next (s1.report .nothingActive 0x03)) ∧
    (q.active ≠ none → q.pending = [] →
      exec (.splice lane) s = .next (s1.report .nothingToSplice 0x03)) ∧
    (∀ d rest, q.active ≠ none → q.pending = d :: rest → d.start ≠ .immediate →
      exec (.splice lane) s = .next (s1.report .badSplice 0x03)) ∧
    ∀ d rest, q.active ≠ none → q.pending = d :: rest → d.start = .immediate →
      exec (.splice lane) s = .next
        ((s1.report .ok 0x03).setLane n { s.lane n with splicePending := true })

/-- ABORT always reports OK: the lane departs its groups, is IDLE at its configured idle level with
no active and no pending descriptor, its carrier output cut; the ABORTED records of the active
launch and of each pending one, oldest first, are offered, each placed, or deferred in its slot at
the back of the lane's queue; with room in the Event Queue all are placed. Every other lane stays.
-/
def Obligations.AbortCommand : Prop :=
  (∀ (lane : BitVec 3) (s : State), s.portListens = true → s.init = none → 6 ≤ lane.toNat →
    exec (.abort lane) s = .next ((s.wordAt .write 0x03).report .badField 0x03)) ∧
  ∀ (lane : BitVec 3) (n : LaneId) (s : State), s.portListens = true → s.init = none →
    lane.toNat = n.num →
    let l := s.lane n
    let mine : List EventBody :=
      (match l.queue.active with
        | some a => [.aborted n a.desc.tag l.passesDone .hostAbort l.stepAddr]
        | none => []) ++
      l.queue.pending.map fun d => .aborted n d.tag 0 .flushed d.entry
    let launches : List Descriptor :=
      (match l.queue.active with | some a => [a.desc] | none => []) ++ l.queue.pending
    let cleared : Lane :=
      { l with
        state := .idle, rest := .cfgIdle, cause := none, splicePending := false
        stopPending := false, waitSatisfied := false, waitSource := none, stack := []
        remaining := 0, zeroRun := 0, gate := .closed, trail := none
        queue := { l.queue with active := none, pending := [] } }
    ∃ t, exec (.abort lane) s = .next t ∧
      t =
        (launches.zip mine).foldl (fun u r => postTerminal n r.1 r.2 u)
          { ((s.wordAt .write 0x03).report .ok 0x03).setLane n cleared with
            groups := s.groupsWithout n } ∧
      t.port = { (s.wordAt .write 0x03).port with cmdResult := ⟨.ok, 0x03⟩ } ∧
      (∃ awaiting, t.lane n =
        { l with
          state := .idle, rest := .cfgIdle, cause := none, splicePending := false
          stopPending := false, waitSatisfied := false, waitSource := none, stack := []
          remaining := 0, zeroRun := 0, gate := .closed, trail := none
          queue := { awaiting := l.queue.awaiting ++ awaiting, active := none, pending := [] } }) ∧
      (∀ m, m ≠ n → t.lane m = s.lane m) ∧ t.groups = s.groupsWithout n ∧
      t.pmem = s.pmem ∧ t.tb = s.tb ∧ t.carriers = s.carriers ∧ t.inputs = s.inputs ∧
      t.capq = s.capq ∧ t.ints = s.ints ∧ t.staging = s.staging ∧ t.ptr = s.ptr ∧
      t.init = s.init ∧
      (s.evq.deferral = [] → s.evq.placed.length + mine.length ≤ 32 →
        t.evq.deferral = [] ∧ (t.lane n).queue.awaiting = l.queue.awaiting ∧
        t.evq.placed.map (fun r => (r.time, r.body)) =
          s.evq.placed.map (fun r => (r.time, r.body)) ++ mine.map fun b => (s.tb.time, b))

/-- CLEAR_FAULT: NOT_FAULTED outside FAULTED; a FAULTED lane is IDLE at its configured idle level,
and activates an IMMEDIATE launch that waits, which is to start at the next boundary; any other
launch that waits is activated between boundaries, its start condition applied, a failing check of
an ON_GROUP one faulting the lane again. A launch so activated starts no earlier than the boundary
after the last one handed on, its own event for that one still to come or not (sinceBoundary is the
model's own field, log 16). -/
def Obligations.ClearFaultCommand : Prop :=
  (∀ (lane : BitVec 3) (s : State), s.portListens = true → s.init = none → 6 ≤ lane.toNat →
    exec (.clearFault lane) s = .next ((s.wordAt .write 0x03).report .badField 0x03)) ∧
  ∀ (lane : BitVec 3) (n : LaneId) (s : State), s.portListens = true → s.init = none →
    lane.toNat = n.num →
    let l := s.lane n
    let s1 := (s.wordAt .write 0x03).report .ok 0x03
    (l.state ≠ .faulted →
      exec (.clearFault lane) s = .next ((s.wordAt .write 0x03).report .notFaulted 0x03)) ∧
    (l.state = .faulted → l.queue.pending = [] →
      exec (.clearFault lane) s = .next
        (s1.setLane n { l with state := .idle, cause := none, rest := .cfgIdle })) ∧
    (∀ d rest, l.state = .faulted → l.queue.pending = d :: rest → d.start = .immediate →
      exec (.clearFault lane) s = .next
        (s1.setLane n
          { l with
            state := .armed, cause := none, rest := .cfgIdle, stepAddr := d.entry, remaining := 0
            passesDone := 0, zeroRun := 0, level := none, sinceBoundary := l.ownDue
            queue := { l.queue with active := some ⟨d, true, 0⟩, pending := rest } })) ∧
    ∀ d rest, l.state = .faulted → l.queue.pending = d :: rest →
      ∃ t,
        (s1.setLane n { l with state := .idle, cause := none, rest := .cfgIdle }).Activates n d rest
          false t [] ∧
        exec (.clearFault lane) s = .next (settle s t)

/-! ## A lane's own event for a boundary -/

/-- LANE_BOUNDARY where the lane begins no step: a boundary already taken does nothing; IDLE,
FAULTED and an ARMED lane whose start is not due only take the flag; RUNNING and WAITING note the
tick and count down. A lane that an activation or a command's release has reached since the boundary
was handed on notes the tick of a WAIT, takes the flag and does nothing else: it acts at the
boundary after (R79, R80, R117), and that neither its timeout nor its splice is acted on meanwhile
is read by inference (log 16). The fields ownDue and sinceBoundary are the model's own (logs 2 and
16), and that the named events then change nothing is the model's choice (log 12). -/
def Obligations.LaneBoundaryWithoutStep : Prop :=
  ∀ (n : LaneId) (s : State), s.port.rstnLow = false →
    let l := s.lane n
    (l.boundaryTaken = true →
      exec (.laneBoundary n) s =
        .next (s.setLane n { l with ownDue := false, sinceBoundary := false })) ∧
    (l.boundaryTaken = false → l.state = .idle ∨ l.state = .faulted →
      exec (.laneBoundary n) s = .next
        (s.setLane n { l with boundaryTaken := true, ownDue := false, sinceBoundary := false })) ∧
    (∀ a, l.boundaryTaken = false → l.sinceBoundary = false → l.state = .armed →
      l.splicePending = false →
      l.queue.active = some a → a.startMet = false → a.desc.start ≠ .atTime s.tb.time →
      exec (.laneBoundary n) s = .next
        (s.setLane n { l with boundaryTaken := true, ownDue := false, sinceBoundary := false })) ∧
    (l.boundaryTaken = false → l.state = .running → 2 ≤ l.remaining.toNat →
      exec (.laneBoundary n) s = .next
        (s.setLane n
          { l with
            boundaryTaken := true, ownDue := false, sinceBoundary := false, holdoverSeen := l.seen s
            remaining := l.remaining - 1 })) ∧
    (l.boundaryTaken = false → l.sinceBoundary = false → l.state = .waiting →
      l.splicePending = false →
      l.waitSatisfied = false → l.remaining ≠ 1 →
      exec (.laneBoundary n) s = .next
        (s.setLane n
          { l with
            boundaryTaken := true, ownDue := false, sinceBoundary := false, holdoverSeen := l.seen s
            remaining := if l.remaining = 0 then 0 else l.remaining - 1 })) ∧
    (l.boundaryTaken = false → s.actsAfter n →
      exec (.laneBoundary n) s = .next
        (s.setLane n
          { l with
            boundaryTaken := true, ownDue := false, sinceBoundary := false
            holdoverSeen := if l.state = .waiting then l.seen s else l.holdoverSeen }) ∧
      ∀ c ∈ [Instr.timeoutExpiry n, .waitSatisfied n, .launchStart n, .spliceLanding n],
        exec c s = .next s)

/-- HOLD_END and WAIT_SATISFIED, where the next address holds a HOLD: the lane notes the tick, moves
to the next address, FFFh to 000h, and runs that HOLD from this boundary, its zero-run count
cleared. LANE_BOUNDARY is the same event (log 12). And whatever the addresses hold: HOLD_END,
WAIT_SATISFIED, LAUNCH_START and a timeout with strict clear are the run of the step, or of the
start, they bring about: one piece of work after another, the work a piece leaves before any other,
until none is left (R50), and the event then settles (R106, R152). The budget of that work is the
model's (log 9). -/
def Obligations.BoundaryStepsToNextHold : Prop :=
  (∀ (n : LaneId) (s : State) (level : StepLevel) (d : BitVec 20), s.takesLaneEvent n →
    (s.lane n).splicePending = false →
    decodeStep (s.fetchWord n ((s.lane n).stepAddr + 1)) = some (.hold level d) →
    let l := s.lane n
    let out : Lane :=
      { l with
        state := .running, stepAddr := l.stepAddr + 1, level := some level, remaining := d
        sight := some (l.sight.getD [])
        zeroRun := 0, boundaryTaken := true, ownDue := false, sinceBoundary := false
        holdoverSeen := l.seen s }
    (l.state = .running → l.remaining = 1 →
      exec (.holdEnd n) s = .next (s.setLane n (judgeSegment s.carriers l out)) ∧
      exec (.laneBoundary n) s = exec (.holdEnd n) s) ∧
    (l.state = .waiting → l.waitSatisfied = true →
      exec (.waitSatisfied n) s = .next
        (s.setLane n
          (judgeSegment s.carriers l { out with waitSatisfied := false, waitSource := none })) ∧
      exec (.laneBoundary n) s = exec (.waitSatisfied n) s)) ∧
  (∀ (k : Nat) (w : Work) (ws : List Work) (s : State),
    runWork k [] s = (s, []) ∧
      runWork (k + 1) (w :: ws) s = runWork k ((doWork w s).2 ++ ws) (doWork w s).1) ∧
  ∀ (n : LaneId) (s : State) (k : Nat) (t : State), s.takesLaneEvent n →
    (s.lane n).splicePending = false → k ≤ stepBudget →
    let l := s.lane n
    let taken : Lane :=
      { l with
        boundaryTaken := true, ownDue := false, sinceBoundary := false
        holdoverSeen := l.seen s }
    let ran (w : Work) (u : State) : Prop := runWork k [w] u = (t, [])
    (l.state = .running → l.remaining = 1 →
      ran (.step n (l.stepAddr + 1)) (s.setLane n { taken with remaining := 0 }) →
      exec (.holdEnd n) s = .next (settle s t)) ∧
    (l.state = .waiting → l.waitSatisfied = true →
      ran (.step n (l.stepAddr + 1))
        (s.setLane n { taken with waitSatisfied := false, waitSource := none }) →
      exec (.waitSatisfied n) s = .next (settle s t)) ∧
    (∀ src a, l.state = .waiting → l.waitSatisfied = false → l.remaining = 1 →
      l.waitStrict = false → l.waitSource = some src → l.queue.active = some a →
      ran (.step n (l.stepAddr + 1))
        { (offerInfo (.waitTimeout n a.desc.tag l.stepAddr src) s).setLane n
            { taken with remaining := 0, waitSatisfied := false, waitSource := none } with
          groups := s.groupsWithout n } →
      exec (.timeoutExpiry n) s = .next (settle s t)) ∧
    ∀ a, l.state = .armed → l.queue.active = some a →
      a.startMet = true ∨ a.desc.start = .atTime s.tb.time →
      ran (.start n)
        (s.setLane n { l with boundaryTaken := true, ownDue := false, sinceBoundary := false }) →
      exec (.launchStart n) s = .next (settle s t)

/-- TIMEOUT_EXPIRY. With strict clear, where the next address holds a HOLD, the lane leaves any
arrived set without breaking a barrier, offers WAIT_TIMEOUT with the WAIT's address and source, and
runs that HOLD from this boundary. With strict set, no other lane held at a group, the lane faults
with WAIT_TIMEOUT at the WAIT's address, and its ABORTED record is the launch's terminal record. And
whatever lanes are held: it departs its group, and then its fault, which may break a barrier, is
taken (R120; BrokenBarrierFaultsHeldLanes says what that fault does), and the event settles.
LANE_BOUNDARY is the same event (log 12). -/
def Obligations.TimeoutExpiryOfAWait : Prop :=
  (∀ (n : LaneId) (s : State) (src : WaitSource) (level : StepLevel) (d : BitVec 20) (a : Launch),
      s.takesLaneEvent n → (s.lane n).splicePending = false → (s.lane n).waitSatisfied = false →
      (s.lane n).state = .waiting → (s.lane n).remaining = 1 → (s.lane n).waitStrict = false →
      (s.lane n).waitSource = some src → (s.lane n).queue.active = some a →
      decodeStep (s.fetchWord n ((s.lane n).stepAddr + 1)) = some (.hold level d) →
      let l := s.lane n
      exec (.timeoutExpiry n) s = .next
          { (offerInfo (.waitTimeout n a.desc.tag l.stepAddr src) s).setLane n
              (judgeSegment s.carriers l
                { l with
                  state := .running, stepAddr := l.stepAddr + 1, level := some level
                  remaining := d, zeroRun := 0, boundaryTaken := true, ownDue := false
                  sinceBoundary := false, sight := some (l.sight.getD [])
                  holdoverSeen := l.seen s, waitSource := none, waitSatisfied := false }) with
            groups := s.groupsWithout n } ∧
        exec (.laneBoundary n) s = exec (.timeoutExpiry n) s) ∧
  (∀ (n : LaneId) (s : State) (a : Launch),
    s.takesLaneEvent n → (s.lane n).splicePending = false → (s.lane n).waitSatisfied = false →
    (s.lane n).state = .waiting → (s.lane n).remaining = 1 → (s.lane n).waitStrict = true →
    (s.lane n).queue.active = some a → s.heldAlone n →
    let l := s.lane n
    exec (.timeoutExpiry n) s = .next
        { postTerminal n a.desc
            (.aborted n a.desc.tag l.passesDone (.fault .waitTimeout) l.stepAddr)
            (s.setLane n
              { l with
                state := .faulted, splicePending := false, stopPending := false, stack := []
                zeroRun := 0, remaining := 0, waitSatisfied := false, waitSource := none
                cause := some .waitTimeout, gate := .closed, trail := none
                boundaryTaken := true, ownDue := false, sinceBoundary := false
                holdoverSeen := l.seen s
                queue := { l.queue with active := none } }) with
          groups := s.groupsWithout n } ∧
      exec (.laneBoundary n) s = exec (.timeoutExpiry n) s) ∧
  ∀ (n : LaneId) (s : State),
    s.takesLaneEvent n → (s.lane n).splicePending = false → (s.lane n).waitSatisfied = false →
    (s.lane n).state = .waiting → (s.lane n).remaining = 1 → (s.lane n).waitStrict = true →
    let l := s.lane n
    exec (.timeoutExpiry n) s = .next
        (settle s
          (faultLane .waitTimeout n
            { s.setLane n
                { l with
                  remaining := 0, waitSatisfied := false, waitSource := none
                  boundaryTaken := true, ownDue := false, sinceBoundary := false
                  holdoverSeen := l.seen s } with
              groups := s.groupsWithout n })) ∧
      exec (.laneBoundary n) s = exec (.timeoutExpiry n) s

/-- LAUNCH_START, where the entry holds a HOLD: an ARMED lane whose start is met, or whose start
time is TIME, runs the entry's HOLD from this boundary with its counts cleared and start met
clear; an AT_TIME launch takes its lateness, 65535 for more. LANE_BOUNDARY is the
same event (log 12). -/
def Obligations.LaunchStartRunsTheEntry : Prop :=
  ∀ (n : LaneId) (s : State) (a : Launch) (level : StepLevel) (d : BitVec 20),
    s.takesLaneEvent n → (s.lane n).splicePending = false → (s.lane n).state = .armed →
    (s.lane n).queue.active = some a → a.startMet = true ∨ a.desc.start = .atTime s.tb.time →
    decodeStep (s.fetchWord n a.desc.entry) = some (.hold level d) →
    let l := s.lane n
    let late : Nat :=
      match a.desc.start with
      | .atTime t => min (s.tb.time - t).toNat 65535
      | .immediate | .onGroup _ | .onTrigger _ => a.lateness.toNat
    exec (.launchStart n) s = .next
        (s.setLane n
          (judgeSegment s.carriers l
            { l with
              state := .running, stepAddr := a.desc.entry, level := some level, remaining := d
              sight := some (l.sight.getD [])
              stack := [], zeroRun := 0, passesDone := 0, holdoverSeen := false
              boundaryTaken := true, ownDue := false, sinceBoundary := false
              queue := { l.queue with
                active := some ⟨a.desc, false, BitVec.ofNat 16 late⟩ } })) ∧
      exec (.laneBoundary n) s = exec (.launchStart n) s

/-- SPLICE_LANDING at a lane that is WAITING, ARMED, or RUNNING at the end of a HOLD with a legal
record behind it, an IMMEDIATE launch waiting whose entry holds a HOLD: the lane leaves any arrived
set it waits in, the active launch retires with DONE SPLICED at the passes it has done, and the
launch behind it runs its entry's HOLD from this boundary. LANE_BOUNDARY is the same event (log 12).
-/
def Obligations.SpliceLandingRunsTheNextLaunch : Prop :=
  ∀ (n : LaneId) (s : State) (a : Launch) (b : Descriptor) (rest : List Descriptor)
    (level : StepLevel) (d : BitVec 20),
    s.takesLaneEvent n → (s.lane n).splicePending = true →
    (s.lane n).state = .waiting ∨ (s.lane n).state = .armed ∨
      ((s.lane n).state = .running ∧ (s.lane n).remaining = 1 ∧
        decodeStep (s.fetchWord n ((s.lane n).stepAddr + 1)) ≠ none) →
    (s.lane n).queue.active = some a → (s.lane n).queue.pending = b :: rest →
    b.start = .immediate → decodeStep (s.fetchWord n b.entry) = some (.hold level d) →
    let l := s.lane n
    let seen : Bool := if l.state = .armed then l.holdoverSeen else l.seen s
    let out : Lane :=
      { l with
        splicePending := false, stopPending := false, waitSatisfied := false, waitSource := none
        stack := [], boundaryTaken := true, ownDue := false, sinceBoundary := false
        holdoverSeen := seen
        rest :=
          match a.desc.rest, l.level with
          | .low, _ => .low
          | .high, _ => .high
          | .idle, _ => .cfgIdle
          | .last, none => .cfgIdle
          | .last, some .high => .high
          | .last, some _ => .low
        queue := { l.queue with active := none } }
    let s1 := postTerminal n a.desc
      (.done n a.desc.tag ⟨l.passesDone, false, true, decide (l.state ≠ .armed) && seen, a.lateness⟩)
      { s.setLane n out with
        groups := if l.state = .running then s.groups else s.groupsWithout n }
    exec (.spliceLanding n) s = .next
        (s1.setLane n
          (judgeSegment s.carriers l
            { s1.lane n with
              state := .running, stepAddr := b.entry, level := some level, remaining := d
              sight := some (l.sight.getD [])
              passesDone := 0, zeroRun := 0, holdoverSeen := false
              queue := { (s1.lane n).queue with
                active := some ⟨b, false, 0⟩, pending := rest } })) ∧
      exec (.laneBoundary n) s = exec (.spliceLanding n) s

/-! ## Steps -/

/-- REPEAT, NEXT, SUB, BACK and LINK at address a, for a lane with no splice pending and its
zero-run count below 16 (R58 to R61): what each pushes or pops, and where the lane begins its next
step, or the fault it takes. Nothing but the lane's step address, zero-run count and stack changes.
-/
def Obligations.FlowSteps : Prop :=
  ∀ (n : LaneId) (a : Addr) (s : State), (s.lane n).splicePending = false →
    (s.lane n).zeroRun < 16 →
    let l := s.lane n
    let at_ (st : List StackFrame) : State :=
      s.setLane n { l with
          stepAddr := a, zeroRun := l.zeroRun + 1, stack := st, sight := some (l.sight.getD []) }
    (∀ c, decodeStep (s.fetchWord n a) = some (.loop c) →
      doWork (.step n a) s =
        if l.stack.length < 4 then (at_ (.loop (a + 1) c :: l.stack), [.step n (a + 1)])
        else (faultLane .stackOverflow n (at_ l.stack), [])) ∧
    (decodeStep (s.fetchWord n a) = some .next →
      (∀ body (k : BitVec 12) rest, l.stack = .loop body k :: rest → 2 ≤ k.toNat →
        doWork (.step n a) s = (at_ (.loop body (k - 1) :: rest), [.step n body])) ∧
      (∀ body rest, l.stack = .loop body 1 :: rest →
        doWork (.step n a) s = (at_ rest, [.step n (a + 1)])) ∧
      ((l.stack = [] ∨ ∃ r rest, l.stack = .sub r :: rest) →
        doWork (.step n a) s = (faultLane .nestError n (at_ l.stack), []))) ∧
    (∀ t, decodeStep (s.fetchWord n a) = some (.sub t) →
      doWork (.step n a) s =
        if l.stack.length < 4 then (at_ (.sub (a + 1) :: l.stack), [.step n t])
        else (faultLane .stackOverflow n (at_ l.stack), [])) ∧
    (decodeStep (s.fetchWord n a) = some .back →
      (∀ r rest, l.stack = .sub r :: rest → doWork (.step n a) s = (at_ rest, [.step n r])) ∧
      ((l.stack = [] ∨ ∃ body k rest, l.stack = .loop body k :: rest) →
        doWork (.step n a) s = (faultLane .nestError n (at_ l.stack), []))) ∧
    ∀ t, decodeStep (s.fetchWord n a) = some (.link t) →
      doWork (.step n a) s = (at_ l.stack, [.step n t])

/-- SIGNAL, TUNE and WAIT on a line at address a, for a lane with no splice pending: SIGNAL offers a
MARK with its tag and address, TUNE writes the pending pair of its carrier, and both go on at the
next address; a WAIT is WAITING with its level, source, strict flag and timeout, and ends the run.
-/
def Obligations.SignalTuneAndWaitSteps : Prop :=
  ∀ (n : LaneId) (a : Addr) (s : State), (s.lane n).splicePending = false →
    let l := s.lane n
    (∀ v, decodeStep (s.fetchWord n a) = some (.signal v) → l.zeroRun < 16 →
      doWork (.step n a) s =
        ((offerInfo (.mark n v a) s).setLane n
          { l with stepAddr := a, zeroRun := l.zeroRun + 1, sight := some (l.sight.getD []) },
          [.step n (a + 1)])) ∧
    (∀ x h w, decodeStep (s.fetchWord n a) = some (.tune x h w) → l.zeroRun < 16 →
      doWork (.step n a) s =
        ((s.setLane n
            { l with
              stepAddr := a, zeroRun := l.zeroRun + 1
              sight := some (l.sight.getD []) }).setCarrier x
          { s.carrier x with pair := some ⟨h, w⟩ }, [.step n (a + 1)])) ∧
    ∀ i level strict t, decodeStep (s.fetchWord n a) = some (.wait (.line i) level strict t) →
      doWork (.step n a) s =
        (s.setLane n
          { l with
            state := .waiting, stepAddr := a, level := some level, waitSource := some (.line i)
            sight := some (l.sight.getD [])
            waitStrict := strict, remaining := t.setWidth 20, waitSatisfied := false
            zeroRun := 0 }, [])

/-- END with frames on the stack faults with NEST_ERROR. With an empty stack passes done rises by
one, to 65535 at most. A launch that has run its passes, 0 being endless, retires with neither
STOPPED nor SPLICED, even with stop pending; else stop pending retires it with STOPPED; else its
next pass begins at its entry. A retirement with no descriptor behind it leaves the lane IDLE at the
rest level its descriptor resolves to, and one with a descriptor behind it activates that one at
this boundary. That a lane ARMED at its retirement carries no HOLDOVER is read by inference (log
14). -/
def Obligations.EndOfAPass : Prop :=
  (∀ (n : LaneId) (a : Addr) (s : State), (s.lane n).splicePending = false →
    (s.lane n).zeroRun < 16 → (s.lane n).stack ≠ [] →
    decodeStep (s.fetchWord n a) = some .endPass →
    doWork (.step n a) s =
      (faultLane .nestError n
        (s.setLane n
          { s.lane n with
            stepAddr := a, zeroRun := (s.lane n).zeroRun + 1
            sight := some ((s.lane n).sight.getD []) }), [])) ∧
  ∀ (n : LaneId) (a : Addr) (s : State) (x : Launch), (s.lane n).splicePending = false →
    (s.lane n).zeroRun < 16 → (s.lane n).stack = [] → (s.lane n).queue.active = some x →
    decodeStep (s.fetchWord n a) = some .endPass →
    let l := s.lane n
    let passes : BitVec 16 := if l.passesDone = 65535 then 65535 else l.passesDone + 1
    let last : Prop := x.desc.passes ≠ 0 ∧ passes.toNat = x.desc.passes.toNat
    let counted : Lane :=
      { l with
        stepAddr := a, zeroRun := l.zeroRun + 1, passesDone := passes
        sight := some (l.sight.getD []) }
    (¬ last → l.stopPending = false →
      doWork (.step n a) s = (s.setLane n counted, [.step n x.desc.entry])) ∧
    ((last ∨ l.stopPending = true) →
      let s1 := postTerminal n x.desc
        (.done n x.desc.tag
          ⟨passes, !decide last, false, l.holdoverSeen && decide (l.state ≠ .armed), x.lateness⟩)
        (s.setLane n
          { counted with
            stopPending := false, waitSatisfied := false, waitSource := none
            rest :=
              match x.desc.rest, l.level with
              | .low, _ => .low
              | .high, _ => .high
              | .idle, _ => .cfgIdle
              | .last, none => .cfgIdle
              | .last, some .high => .high
              | .last, some _ => .low
            queue := { l.queue with active := none } })
      (l.queue.pending = [] → doWork (.step n a) s =
        (s1.setLane n { s1.lane n with state := .idle, remaining := 0 }, [])) ∧
      ∀ d rest, l.queue.pending = d :: rest →
        ∃ t w, s1.Activates n d rest true t w ∧ doWork (.step n a) s = (t, w))

/-- A lane that begins a step at an illegal record, whatever its other conditions, faults with
BAD_STEP there, and one that begins a zero-duration step with its zero-run count at 16 faults with
RUNAWAY, whatever lanes are held (BrokenBarrierFaultsHeldLanes says what a fault does); where no
other lane is held at a group the fault is that lane's alone. -/
def Obligations.IllegalAndRunawaySteps : Prop :=
  (∀ (n : LaneId) (a : Addr) (s : State),
    let l := s.lane n
    let fault (cause : FaultCause) : State :=
      faultLane cause n (s.setLane n { l with stepAddr := a, sight := some (l.sight.getD []) })
    (decodeStep (s.fetchWord n a) = none → doWork (.step n a) s = (fault .badStep, [])) ∧
    ∀ r, decodeStep (s.fetchWord n a) = some r → l.splicePending = false → 16 ≤ l.zeroRun →
      (∀ level d, r ≠ .hold level d) → (∀ src level strict t, r ≠ .wait src level strict t) →
      doWork (.step n a) s = (fault .runaway, [])) ∧
  ∀ (n : LaneId) (a : Addr) (s : State) (x : Launch), (s.lane n).queue.active = some x →
    s.heldAlone n →
    let l := s.lane n
    let fault (cause : FaultCause) : State :=
      { postTerminal n x.desc (.aborted n x.desc.tag l.passesDone (.fault cause) a)
          (s.setLane n
            { l with
              state := .faulted, stepAddr := a, splicePending := false, stopPending := false
              sight := some (l.sight.getD [])
              stack := [], zeroRun := 0, remaining := 0, waitSatisfied := false
              waitSource := none, cause := some cause, gate := .closed, trail := none
              queue := { l.queue with active := none } }) with
        groups := s.groupsWithout n }
    (decodeStep (s.fetchWord n a) = none → doWork (.step n a) s = (fault .badStep, [])) ∧
    ∀ r, decodeStep (s.fetchWord n a) = some r → l.splicePending = false → l.zeroRun = 16 →
      (∀ level d, r ≠ .hold level d) → (∀ src level strict t, r ≠ .wait src level strict t) →
      doWork (.step n a) s = (fault .runaway, [])

/-- A broken barrier: the fault of a member of group g while other lanes are held there, all of them
with an active launch and none of them or of the faulting lane's own groups breaking the other
group, empties the arrived set and faults every held lane with BARRIER_BROKEN at its own address.
The records are offered the faulting lane's first and then in ascending lane number; the other lanes
and both member sets and release counts stay. And the fault of any lane, whatever its groups, no
lane held at both: each group it is a member of and lanes are held at breaks, a group of which a
lane so broken is a member breaks second, the records are offered in that order, each set's in
ascending lane number, and all else stays. Which of two groups broken at once comes first is left
open (log 10). -/
def Obligations.BrokenBarrierFaultsHeldLanes : Prop :=
  (∀ (cause : FaultCause) (n : LaneId) (g : GroupId) (s : State),
    LaneSet.has (s.group g).members n = true → LaneSet.erase (s.group g).arrived n ≠ 0 →
    LaneSet.erase (s.group g.other).arrived n = 0 →
    (∀ m, m = n ∨ LaneSet.has (s.group g).arrived m = true → (s.lane m).queue.active ≠ none) →
    let held : LaneId → Prop := fun m => m ≠ n ∧ LaneSet.has (s.group g).arrived m = true
    let order : List LaneId :=
      n :: LaneId.all.filter fun m => decide (m ≠ n) && LaneSet.has (s.group g).arrived m
    let t := faultLane cause n s
    (∀ h, (t.group h).members = (s.group h).members ∧ (t.group h).count = (s.group h).count ∧
      (t.group h).arrived = 0) ∧
    (t.lane n).state = .faulted ∧ (t.lane n).cause = some cause ∧
    (∀ m, held m → (t.lane m).state = .faulted ∧ (t.lane m).cause = some .barrierBroken ∧
      (t.lane m).stepAddr = (s.lane m).stepAddr ∧ (t.lane m).passesDone = (s.lane m).passesDone ∧
      (t.lane m).stack = [] ∧ (t.lane m).queue.active = none ∧
      (t.lane m).queue.pending = (s.lane m).queue.pending) ∧
    (∀ m, m ≠ n → ¬ held m → t.lane m = s.lane m) ∧
    (s.evq.deferral = [] → s.evq.placed.length + order.length ≤ 32 →
      t.evq.placed.map (fun r => r.body) =
        s.evq.placed.map (fun r => r.body) ++
          order.filterMap fun m =>
            (s.lane m).queue.active.map fun a =>
              .aborted m a.desc.tag (s.lane m).passesDone
                (.fault (if m = n then cause else .barrierBroken)) (s.lane m).stepAddr)) ∧
  (∀ (cause : FaultCause) (l : Lane), l.faulted cause =
    { l with
      state := .faulted, splicePending := false, stopPending := false, stack := [], zeroRun := 0
      remaining := 0, waitSatisfied := false, waitSource := none, cause := some cause
      gate := .closed, trail := none, queue := { l.queue with active := none } }) ∧
  ∀ (cause : FaultCause) (n : LaneId) (s : State),
    let left : GroupId → LaneSet := fun g => LaneSet.erase (s.group g).arrived n
    let first : GroupId → Bool := fun g =>
      decide (left g ≠ 0) && LaneSet.has (s.group g).members n
    let second : GroupId → Bool := fun g =>
      !first g && decide (left g ≠ 0) && first g.other &&
        LaneId.all.any fun m => LaneSet.has (left g.other) m && LaneSet.has (s.group g).members m
    let broken : GroupId → Bool := fun g => first g || second g
    let fell : GroupId → List LaneId := fun g =>
      LaneId.all.filter fun m => broken g && LaneSet.has (left g) m
    (∀ m, ¬(LaneSet.has (left .g0) m = true ∧ LaneSet.has (left .g1) m = true)) →
    ∃ g, (second g = false ∧ (first g = false → first g.other = false)) ∧
      faultLane cause n s =
        s.postAborted (fun m => if m = n then cause else .barrierBroken)
          (n :: (fell g ++ fell g.other))
          { s with
            groups := PerGroup.build fun h =>
              { s.group h with arrived := if broken h then 0 else left h }
            lanes := PerLane.build fun m =>
              if m = n then (s.lane m).faulted cause
              else if m ∈ fell g ++ fell g.other then (s.lane m).faulted .barrierBroken
              else s.lane m }

/-- A WAIT on a group begun at a boundary. A lane that is no member faults with NOT_MEMBER, one that
finds a member FAULTED with BARRIER_BROKEN, and one whose arrival would release the group at a
zero-run count of 16 with RUNAWAY, each at the WAIT's address. Past the checks the last arrival
releases the group there: the arrived set is empty, the release counts, GROUP_RELEASED carries the
member set and the new count, and every member is stepped in ascending lane number, a WAITING one at
the address behind its WAIT and an ARMED one at its launch's start, with the boundary taken. An
arrival that is not the last is held, WAITING, whatever the zero-run count. -/
def Obligations.GroupReleaseAtABoundary : Prop :=
  (∀ (n : LaneId) (g : GroupId) (a : Addr) (level : StepLevel) (strict : Bool) (t : BitVec 16)
    (s : State),
    decodeStep (s.fetchWord n a) = some (.wait (.group g) level strict t) →
    (s.lane n).splicePending = false →
    let l := s.lane n
    let fault (cause : FaultCause) : State :=
      faultLane cause n (s.setLane n { l with stepAddr := a, sight := some (l.sight.getD []) })
    let member : Prop := LaneSet.has (s.group g).members n = true
    let shut : Prop := ∃ m, LaneSet.has (s.group g).members m = true ∧ (s.lane m).state = .faulted
    let all := LaneSet.insert (s.group g).arrived n
    let waiting (zeroRun : Nat) : Lane :=
      { l with
        state := .waiting, stepAddr := a, level := some level, waitSource := some (.group g)
        sight := some (l.sight.getD [])
        waitStrict := strict, remaining := t.setWidth 20, waitSatisfied := false
        zeroRun := zeroRun }
    (¬ member → doWork (.step n a) s = (fault .notMember, [])) ∧
    (member → shut → doWork (.step n a) s = (fault .barrierBroken, [])) ∧
    (member → ¬ shut → all = (s.group g).members → 16 ≤ l.zeroRun →
      doWork (.step n a) s = (fault .runaway, [])) ∧
    (member → ¬ shut → all ≠ (s.group g).members →
      doWork (.step n a) s =
        ((s.setLane n (waiting 0)).setGroup g { s.group g with arrived := all }, [])) ∧
    (member → ¬ shut → all = (s.group g).members → l.zeroRun < 16 →
      doWork (.step n a) s =
        ({ offerInfo (.groupReleased g all ((s.group g).count + 1)) s with
            lanes := s.lanes.set n (waiting (l.zeroRun + 1))
            groups := s.groups.set g
              { s.group g with arrived := 0, count := (s.group g).count + 1 } },
          (LaneId.all.filter fun m => LaneSet.has all m).map .released))) ∧
  ∀ (n : LaneId) (s : State),
    let l := s.lane n
    (l.state = .waiting →
      doWork (.released n) s =
        (s.setLane n
          { l with
            boundaryTaken := true, waitSource := none, waitSatisfied := false
            holdoverSeen := if l.boundaryTaken then l.holdoverSeen else l.seen s },
          [.step n (l.stepAddr + 1)])) ∧
    (l.state = .armed →
      doWork (.released n) s = (s.setLane n { l with boundaryTaken := true }, [.start n]))

/-! ## Gates, carriers and lines -/

/-- What a lane event does to the lane's gate (R106 to R109), by the carrier the lane calls for
before and after it; and the pin: a trail shows HIGH, IDLE and ARMED the rest level in force,
FAULTED the fault level, RUNNING and WAITING the step level or what the gate passes, and RSTN low
HIGHZ. A generator's level is its phase while enabled and LOW while disabled. A trail overwrites one
that still stands (log 14), and an event that ends a segment with a trail and begins one on the
other carrier, whose trail still stands, takes the end first (log 20). -/
def Obligations.GatesAndPins : Prop :=
  (∀ (cs : PerCarrier Carrier) (l m : Lane),
    let open_ := m.cfg.guard = true ∧ ∃ x, l.called = some x ∧ m.gate = .open x ∧
      (cs.get x).level = .high
    (l.called = m.called → judgeSegment cs l m = m) ∧
    (∀ x, l.called = some x → m.called = none →
      (open_ → judgeSegment cs l m = { m with gate := .closed, trail := some x }) ∧
      (¬ open_ → judgeSegment cs l m = { m with gate := .closed })) ∧
    (∀ y, l.called = none → m.called = some y →
      (m.trail = some y → judgeSegment cs l m = { m with gate := .open y, trail := none }) ∧
      (m.trail ≠ some y → judgeSegment cs l m =
        { m with gate := if m.cfg.guard then .arming y else .open y })) ∧
    ∀ x y, l.called = some x → m.called = some y → x ≠ y →
      (open_ → judgeSegment cs l m = { m with gate := .arming y, trail := some x }) ∧
      (¬ open_ → m.trail = some y →
        judgeSegment cs l m = { m with gate := .open y, trail := none }) ∧
      (¬ open_ → m.trail ≠ some y → judgeSegment cs l m =
        { m with gate := if m.cfg.guard then .arming y else .open y })) ∧
  (∀ l : Lane, (l.state = .running ∨ l.state = .waiting →
      (∀ x, l.level = some (.carrier x) → l.called = some x) ∧
      ((∀ x, l.level ≠ some (.carrier x)) → l.called = none)) ∧
    (l.state = .idle ∨ l.state = .armed ∨ l.state = .faulted → l.called = none)) ∧
  (∀ c : Carrier, (c.enable = true → c.level = c.phase) ∧ (c.enable = false → c.level = .low)) ∧
  (levelPin .low = .low ∧ levelPin .high = .high) ∧
  (CfgLevel.pin .low = .low ∧ CfgLevel.pin .high = .high ∧ CfgLevel.pin .highz = .highz) ∧
  ∀ (n : LaneId) (s : State),
    let l := s.lane n
    (s.port.rstnLow = true → s.pinLevel n = .highz) ∧
    (s.port.rstnLow = false → l.trail ≠ none → s.pinLevel n = .high) ∧
    (s.port.rstnLow = false → l.trail = none →
      (l.state = .idle ∨ l.state = .armed → s.pinLevel n =
        match l.rest with | .low => .low | .high => .high | .cfgIdle => l.cfg.idle.pin) ∧
      (l.state = .faulted → s.pinLevel n = l.cfg.fault.pin) ∧
      (l.state = .running ∨ l.state = .waiting →
        (l.level = some .low → s.pinLevel n = .low) ∧
        (l.level = some .high → s.pinLevel n = .high) ∧
        ∀ x, l.level = some (.carrier x) →
          (∀ y, l.gate = .open y → s.pinLevel n = levelPin (s.carrier y).level) ∧
          ((∀ y, l.gate ≠ .open y) → s.pinLevel n = .low)))

/-- HIGH_PHASE_END and PERIOD_END of an enabled generator: the phase ends, its count restarts; the
end of a high phase ends every trail on it; a period end applies the pending pair and opens every
gate waiting on it. That the periods counted within a carrier clock restart at 0 is read by
inference (log 6), and that in the other phase, or disabled, the command changes nothing is the
model's choice (log 12). -/
def Obligations.CarrierPhaseEvents : Prop :=
  ∀ (x : CarrierId) (s : State), s.port.rstnLow = false →
    let c := s.carrier x
    (c.enable = true → c.phase = .high →
      exec (.highPhaseEnd x) s = .next
        { s.setCarrier x { c with phase := .low, count := 0, sub := 0 } with
          lanes := PerLane.build fun n =>
            { s.lane n with
              trail := if (s.lane n).trail = some x then none else (s.lane n).trail } }) ∧
    (c.enable = true → c.phase = .low →
      exec (.periodEnd x) s = .next
        { s.setCarrier x
            { c with
              inUse := (match c.pair with | some p => p | none => c.inUse)
              pair := none, phase := .high, count := 0, sub := 0 } with
          lanes := PerLane.build fun n =>
            { s.lane n with
              gate := if (s.lane n).gate = .arming x then .open x else (s.lane n).gate } }) ∧
    (c.enable = false ∨ c.phase = .low → exec (.highPhaseEnd x) s = .next s) ∧
    (c.enable = false ∨ c.phase = .high → exec (.periodEnd x) s = .next s)

/-- IN_PIN_CHANGE sets the pin, and SAMPLE takes its level: an equal sample ends the run, an
opposite one counts, an UNSETTLED line settles without an edge, and the F-th opposite sample accepts
the level. -/
def Obligations.InputPinsAndSamples : Prop :=
  (∀ (i : LineId) (v : Level) (s : State), exec (.inPinChange i v) s =
    .next (s.setInput i { s.input i with pin := v })) ∧
  ∀ (i : LineId) (s : State), s.port.rstnLow = false →
    let l := s.input i
    let flip : Edge := match l.pin with | .high => .rise | .low => .fall
    (l.accepted = some l.pin →
      exec (.sample i) s = .next (s.setInput i { l with sampleCount := 0, runCount := 0 })) ∧
    (∀ v, l.accepted = some v → v ≠ l.pin → l.runCount + 1 < l.f →
      exec (.sample i) s = .next
        (s.setInput i
          { l with sampleCount := 0, runLevel := l.pin, runCount := l.runCount + 1 })) ∧
    (∀ v, l.accepted = some v → v ≠ l.pin → l.f ≤ l.runCount + 1 →
      exec (.sample i) s = .next
        (acceptEdge i flip
          (s.setInput i
            { l with
              sampleCount := 0, accepted := some l.pin, runLevel := l.pin, runCount := 0 }))) ∧
    (l.accepted = none →
      let k := if l.pin = l.runLevel ∨ l.runCount = 0 then l.runCount + 1 else 1
      (k < l.f →
        exec (.sample i) s = .next
          (s.setInput i { l with sampleCount := 0, runLevel := l.pin, runCount := k })) ∧
      (l.f ≤ k →
        exec (.sample i) s = .next
          (s.setInput i
            { l with
              sampleCount := 0, accepted := some l.pin, runLevel := l.pin, runCount := 0 })))

/-- An accepted edge: in the line's trigger set, it satisfies the wait of every lane WAITING on the
line and meets the start of every lane ARMED on its trigger, and reaches no other; in its capture
set, it is stored with TIME, the phase, the holdover flag, the gap count and the tag lane's
snapshot, or dropped from a full queue, counted, with CAPQ_GAP set. -/
def Obligations.EdgesTriggerAndCapture : Prop :=
  ∀ (i : LineId) (e : Edge) (s : State),
    let l := s.input i
    let inSet : EdgeSet → Prop := fun w =>
      w = .both ∨ (w = .rise ∧ e = .rise) ∨ (w = .fall ∧ e = .fall)
    let t := acceptEdge i e s
    (inSet l.trigger → ∀ n,
      ((s.lane n).state = .waiting → (s.lane n).waitSource = some (.line i) →
        t.lane n = { s.lane n with waitSatisfied := true }) ∧
      (∀ a, (s.lane n).state = .armed → (s.lane n).queue.active = some a →
        a.desc.start = .onTrigger i →
        t.lane n =
          { s.lane n with
            queue := { (s.lane n).queue with active := some { a with startMet := true } } }) ∧
      (¬((s.lane n).state = .waiting ∧ (s.lane n).waitSource = some (.line i)) →
        ¬((s.lane n).state = .armed ∧
          ∃ a, (s.lane n).queue.active = some a ∧ a.desc.start = .onTrigger i) →
        t.lane n = s.lane n)) ∧
    (¬ inSet l.trigger → t.lanes = s.lanes) ∧
    (¬ inSet l.capture → t.capq = s.capq ∧ t.ints = s.ints) ∧
    (inSet l.capture → s.capq.records.length < 32 →
      t.ints = s.ints ∧ ∃ r : CaptureRecord,
        t.capq = { s.capq with records := s.capq.records ++ [r], gap := 0 } ∧
        r.line = i ∧ r.edge = e ∧ r.time = s.tb.time ∧ r.gap = s.capq.gap ∧
        r.phase.toNat =
          min (s.tb.tick.count / 2 ^ s.tb.tick.div.m.toNat) (s.tb.tick.div.divisor - 1) ∧
        (r.holdover = true ↔ s.tb.tick.set = .holdover) ∧
        (6 ≤ l.tagCode.toNat → r.snapshot = none) ∧
        ∀ n : LaneId, l.tagCode.toNat = n.num →
          ∃ p, r.snapshot = some p ∧ p.lane = n ∧ p.state = (s.lane n).state ∧
            p.addr = (s.lane n).stepAddr ∧
            p.tag = (match (s.lane n).queue.active with | some a => a.desc.tag | none => 0)) ∧
    (inSet l.capture → 32 ≤ s.capq.records.length →
      t.capq = { s.capq with gap := if s.capq.gap = 255 then 255 else s.capq.gap + 1 } ∧
      t.ints = { s.ints with capqGap := true }) ∧
    t.pmem = s.pmem ∧ t.tb = s.tb ∧ t.groups = s.groups ∧ t.carriers = s.carriers ∧
    t.inputs = s.inputs ∧ t.evq = s.evq ∧ t.port = s.port ∧ t.staging = s.staging ∧
    t.ptr = s.ptr ∧ t.init = s.init

/-! ## Step records and invariants -/

/-- A word is read as R177 lays a step record out: its kind in bits 31 to 28, each kind's fields at
their places, no other bit examined, and nothing legal in the words it calls illegal. -/
def Obligations.StepRecordLayout : Prop :=
  ∀ w : Word,
    let kind := w.toNat / 2 ^ 28
    let level (c : Nat) : StepLevel :=
      match c with | 0 => .low | 1 => .high | 2 => .carrier .a | _ => .carrier .b
    (kind = 0 → decodeStep w = some .endPass) ∧
    (kind = 1 → w.toNat % 2 ^ 20 = 0 → decodeStep w = none) ∧
    (kind = 1 → w.toNat % 2 ^ 20 ≠ 0 →
      decodeStep w = some (.hold (level (w.toNat / 2 ^ 26 % 4)) (BitVec.ofNat 20 w.toNat))) ∧
    (kind = 2 → 6 ≤ w.toNat / 2 ^ 24 % 16 → decodeStep w = none) ∧
    (∀ i : LineId, kind = 2 → w.toNat / 2 ^ 24 % 16 = i.num →
      decodeStep w = some (.wait (.line i) (level (w.toNat / 2 ^ 22 % 4))
        (decide (w.toNat / 2 ^ 21 % 2 = 1)) (BitVec.ofNat 16 w.toNat))) ∧
    (∀ g : GroupId, kind = 2 → w.toNat / 2 ^ 24 % 16 = 4 + g.num →
      decodeStep w = some (.wait (.group g) (level (w.toNat / 2 ^ 22 % 4))
        (decide (w.toNat / 2 ^ 21 % 2 = 1)) (BitVec.ofNat 16 w.toNat))) ∧
    (kind = 3 → w.toNat % 2 ^ 12 = 0 → decodeStep w = none) ∧
    (kind = 3 → w.toNat % 2 ^ 12 ≠ 0 → decodeStep w = some (.loop (BitVec.ofNat 12 w.toNat))) ∧
    (kind = 4 → decodeStep w = some .next) ∧ (kind = 6 → decodeStep w = some .back) ∧
    (kind = 5 → decodeStep w = some (.sub (BitVec.ofNat 12 w.toNat))) ∧
    (kind = 7 → decodeStep w = some (.link (BitVec.ofNat 12 w.toNat))) ∧
    (kind = 8 → decodeStep w = some (.signal (BitVec.ofNat 8 w.toNat))) ∧
    (kind = 9 → w.toNat / 2 ^ 8 % 256 = 0 ∨ w.toNat % 256 = 0 → decodeStep w = none) ∧
    (kind = 9 → w.toNat / 2 ^ 8 % 256 ≠ 0 → w.toNat % 256 ≠ 0 →
      decodeStep w = some (.tune (if w.toNat / 2 ^ 27 % 2 = 1 then .b else .a)
        (BitVec.ofNat 8 (w.toNat / 2 ^ 8)) (BitVec.ofNat 8 w.toNat))) ∧
    (10 ≤ kind → decodeStep w = none)

/-- Reading a legal step record's own word gives the record back. -/
def Obligations.StepRecordsRoundTrip : Prop :=
  ∀ r : StepRecord, r.legal = true → decodeStep (encodeStep r) = some r

/-- The state after the power-on reset meets every invariant. State.reset is such a state (log 4);
that the periods counted within a carrier clock are 0 in it is read by inference (log 6). -/
def Obligations.ResetMeetsTheInvariants : Prop := State.reset.Ok

/-- Every step keeps the pattern memory in canonical form and INIT within it. The form is that of
the model's own list of bytes (log 5). -/
def Obligations.StepsKeepTheMemory : Prop :=
  ∀ s t : State, s.MemoryOk → step s = .next t → t.MemoryOk

/-- Every step keeps the bounds and agreements of the Event Queue, the deferral list, the launch
queues, the pending TIMEBASE record and the Capture Queue. -/
def Obligations.StepsKeepTheQueues : Prop :=
  ∀ s t : State, s.QueuesOk → step s = .next t → t.QueuesOk

/-- Every step keeps each lane's state, launch, stack and zero-run count in agreement. -/
def Obligations.StepsKeepTheLanes : Prop :=
  ∀ s t : State, s.LanesOk → step s = .next t → t.LanesOk

/-- Every step keeps arrived sets within member sets, made of lanes ARMED on an ON_GROUP launch for
the group or WAITING on it, with no lane in both, and empty while a member is FAULTED. -/
def Obligations.StepsKeepTheGroups : Prop :=
  ∀ s t : State, s.GroupsOk → step s = .next t → t.GroupsOk

/-- Every step keeps the timebase, the carriers, the lines and the port within their bounds. Two
clauses are no rule's words: that the window timer holds 0 in INTERNAL after a switch is the model's
choice, since R29 and R32 say only that the monitor stops there (log 15); and that the periods
counted within a carrier clock, the field sub, are 0 while a generator is disabled, and below p
while it is enabled, is read by inference (log 6). -/
def Obligations.StepsKeepTheUnits : Prop :=
  ∀ s t : State, s.UnitsOk → step s = .next t → t.UnitsOk

end Statements
end

