-- ==== Sys2Proof/Laws/Banks.lean ====
section
/-! SUPPORT. Laws of the banks and of lane sets: a value set is the value got, and no other value
changes. -/

namespace Sys2Proof.Machine

variable {α : Type}

@[simp] theorem PerLane.get_set_self (v : PerLane α) (n : LaneId) (x : α) : (v.set n x).get n = x := by
  cases n <;> rfl

@[simp] theorem PerLane.get_set_ne (v : PerLane α) {n m : LaneId} (x : α) (h : m ≠ n) :
    (v.set n x).get m = v.get m := by
  cases n <;> cases m <;> first | rfl | exact absurd rfl h

@[simp] theorem PerLane.get_build (f : LaneId → α) (n : LaneId) : (PerLane.build f).get n = f n := by
  cases n <;> rfl

@[simp] theorem PerLane.build_get (v : PerLane α) : PerLane.build v.get = v := rfl

theorem PerLane.ext_get {v w : PerLane α} (h : ∀ n, v.get n = w.get n) : v = w := by
  cases v
  cases w
  have h0 := h .l0
  have h1 := h .l1
  have h2 := h .l2
  have h3 := h .l3
  have h4 := h .l4
  have h5 := h .l5
  simp only [PerLane.get] at h0 h1 h2 h3 h4 h5
  subst h0 h1 h2 h3 h4 h5
  rfl

@[simp] theorem PerLane.set_get (v : PerLane α) (n : LaneId) : v.set n (v.get n) = v := by
  cases n <;> rfl

@[simp] theorem PerLane.set_set (v : PerLane α) (n : LaneId) (x y : α) :
    (v.set n x).set n y = v.set n y := by
  cases n <;> rfl

@[simp] theorem PerGroup.get_set_self (v : PerGroup α) (g : GroupId) (x : α) :
    (v.set g x).get g = x := by
  cases g <;> rfl

@[simp] theorem PerGroup.get_set_ne (v : PerGroup α) {g h : GroupId} (x : α) (hne : h ≠ g) :
    (v.set g x).get h = v.get h := by
  cases g <;> cases h <;> first | rfl | exact absurd rfl hne

@[simp] theorem PerGroup.get_build (f : GroupId → α) (g : GroupId) :
    (PerGroup.build f).get g = f g := by
  cases g <;> rfl

@[simp] theorem PerGroup.build_get (v : PerGroup α) : PerGroup.build v.get = v := rfl

theorem PerGroup.ext_get {v w : PerGroup α} (h : ∀ g, v.get g = w.get g) : v = w := by
  cases v
  cases w
  have h0 := h .g0
  have h1 := h .g1
  simp only [PerGroup.get] at h0 h1
  subst h0 h1
  rfl

@[simp] theorem PerCarrier.get_set_self (v : PerCarrier α) (x : CarrierId) (y : α) :
    (v.set x y).get x = y := by
  cases x <;> rfl

@[simp] theorem PerCarrier.get_set_ne (v : PerCarrier α) {x z : CarrierId} (y : α) (h : z ≠ x) :
    (v.set x y).get z = v.get z := by
  cases x <;> cases z <;> first | rfl | exact absurd rfl h

@[simp] theorem PerCarrier.get_build (f : CarrierId → α) (x : CarrierId) :
    (PerCarrier.build f).get x = f x := by
  cases x <;> rfl

@[simp] theorem PerLine.get_set_self (v : PerLine α) (n : LineId) (x : α) : (v.set n x).get n = x := by
  cases n <;> rfl

@[simp] theorem PerLine.get_set_ne (v : PerLine α) {n m : LineId} (x : α) (h : m ≠ n) :
    (v.set n x).get m = v.get m := by
  cases n <;> cases m <;> first | rfl | exact absurd rfl h

@[simp] theorem PerLine.get_build (f : LineId → α) (n : LineId) : (PerLine.build f).get n = f n := by
  cases n <;> rfl

/-- Every lane stands in the list of lanes, so a lane of a set stands in the set's list. -/
@[simp] theorem LaneId.mem_all (n : LaneId) : n ∈ LaneId.all := by
  cases n <;> decide

@[simp] theorem LaneSet.mem_toList (m : LaneSet) (n : LaneId) :
    n ∈ LaneSet.toList m ↔ LaneSet.has m n = true := by
  simp [LaneSet.toList]

@[simp] theorem LaneSet.has_zero (n : LaneId) : LaneSet.has 0#6 n = false := by
  simp [LaneSet.has]

theorem LaneId.num_lt (n : LaneId) : n.num < 6 := by cases n <;> decide

theorem LaneId.num_inj {n m : LaneId} (h : n.num = m.num) : n = m := by
  cases n <;> cases m <;> first | rfl | exact absurd h (by decide)

/-- A set's bits below 6 decide it. -/
theorem LaneSet.ext_has {a b : LaneSet} (h : ∀ n, LaneSet.has a n = LaneSet.has b n) : a = b := by
  apply BitVec.eq_of_getLsbD_eq
  intro i hi
  have h0 := h .l0
  have h1 := h .l1
  have h2 := h .l2
  have h3 := h .l3
  have h4 := h .l4
  have h5 := h .l5
  simp only [LaneSet.has, LaneId.num] at h0 h1 h2 h3 h4 h5
  interval_cases i <;> assumption

@[simp] theorem LaneSet.has_single (n m : LaneId) :
    LaneSet.has (LaneSet.single n) m = decide (m = n) := by
  cases n <;> cases m <;> decide

@[simp] theorem LaneSet.has_insert (a : LaneSet) (n m : LaneId) :
    LaneSet.has (LaneSet.insert a n) m = (LaneSet.has a m || decide (m = n)) := by
  rw [← LaneSet.has_single]
  simp [LaneSet.has, LaneSet.insert]

@[simp] theorem LaneSet.has_erase (a : LaneSet) (n m : LaneId) :
    LaneSet.has (LaneSet.erase a n) m = (LaneSet.has a m && !decide (m = n)) := by
  rw [← LaneSet.has_single]
  have hm := LaneId.num_lt m
  simp [LaneSet.has, LaneSet.erase, hm]

theorem LaneSet.ne_zero_of_has {a : LaneSet} {n : LaneId} (h : LaneSet.has a n = true) : a ≠ 0 := by
  rintro rfl
  exact absurd h (by simp)

end Sys2Proof.Machine
end

