-- ==== Sys2Proof/Laws/State.lean ====
section
/-! SUPPORT. One lemma for each field under each update of the state, true by unfolding the update
once. -/

namespace Sys2Proof.Machine

variable (s : State)

@[simp] theorem State.setLane_pmem (n : LaneId) (l : Lane) :
    (s.setLane n l).pmem = s.pmem := rfl
@[simp] theorem State.setLane_init (n : LaneId) (l : Lane) :
    (s.setLane n l).init = s.init := rfl
@[simp] theorem State.setLane_ptr (n : LaneId) (l : Lane) :
    (s.setLane n l).ptr = s.ptr := rfl
@[simp] theorem State.setLane_tb (n : LaneId) (l : Lane) :
    (s.setLane n l).tb = s.tb := rfl
@[simp] theorem State.setLane_staging (n : LaneId) (l : Lane) :
    (s.setLane n l).staging = s.staging := rfl
@[simp] theorem State.setLane_carriers (n : LaneId) (l : Lane) :
    (s.setLane n l).carriers = s.carriers := rfl
@[simp] theorem State.setLane_groups (n : LaneId) (l : Lane) :
    (s.setLane n l).groups = s.groups := rfl
@[simp] theorem State.setLane_inputs (n : LaneId) (l : Lane) :
    (s.setLane n l).inputs = s.inputs := rfl
@[simp] theorem State.setLane_capq (n : LaneId) (l : Lane) :
    (s.setLane n l).capq = s.capq := rfl
@[simp] theorem State.setLane_evq (n : LaneId) (l : Lane) :
    (s.setLane n l).evq = s.evq := rfl
@[simp] theorem State.setLane_ints (n : LaneId) (l : Lane) :
    (s.setLane n l).ints = s.ints := rfl
@[simp] theorem State.setLane_port (n : LaneId) (l : Lane) :
    (s.setLane n l).port = s.port := rfl
@[simp] theorem State.setLane_draws (n : LaneId) (l : Lane) :
    (s.setLane n l).draws = s.draws := rfl
@[simp] theorem State.setLane_pending (n : LaneId) (l : Lane) :
    (s.setLane n l).pending = s.pending := rfl

@[simp] theorem State.setGroup_pmem (g : GroupId) (x : Group) :
    (s.setGroup g x).pmem = s.pmem := rfl
@[simp] theorem State.setGroup_init (g : GroupId) (x : Group) :
    (s.setGroup g x).init = s.init := rfl
@[simp] theorem State.setGroup_ptr (g : GroupId) (x : Group) :
    (s.setGroup g x).ptr = s.ptr := rfl
@[simp] theorem State.setGroup_tb (g : GroupId) (x : Group) :
    (s.setGroup g x).tb = s.tb := rfl
@[simp] theorem State.setGroup_lanes (g : GroupId) (x : Group) :
    (s.setGroup g x).lanes = s.lanes := rfl
@[simp] theorem State.setGroup_staging (g : GroupId) (x : Group) :
    (s.setGroup g x).staging = s.staging := rfl
@[simp] theorem State.setGroup_carriers (g : GroupId) (x : Group) :
    (s.setGroup g x).carriers = s.carriers := rfl
@[simp] theorem State.setGroup_inputs (g : GroupId) (x : Group) :
    (s.setGroup g x).inputs = s.inputs := rfl
@[simp] theorem State.setGroup_capq (g : GroupId) (x : Group) :
    (s.setGroup g x).capq = s.capq := rfl
@[simp] theorem State.setGroup_evq (g : GroupId) (x : Group) :
    (s.setGroup g x).evq = s.evq := rfl
@[simp] theorem State.setGroup_ints (g : GroupId) (x : Group) :
    (s.setGroup g x).ints = s.ints := rfl
@[simp] theorem State.setGroup_port (g : GroupId) (x : Group) :
    (s.setGroup g x).port = s.port := rfl
@[simp] theorem State.setGroup_draws (g : GroupId) (x : Group) :
    (s.setGroup g x).draws = s.draws := rfl
@[simp] theorem State.setGroup_pending (g : GroupId) (x : Group) :
    (s.setGroup g x).pending = s.pending := rfl

@[simp] theorem State.setCarrier_pmem (x : CarrierId) (c : Carrier) :
    (s.setCarrier x c).pmem = s.pmem := rfl
@[simp] theorem State.setCarrier_init (x : CarrierId) (c : Carrier) :
    (s.setCarrier x c).init = s.init := rfl
@[simp] theorem State.setCarrier_ptr (x : CarrierId) (c : Carrier) :
    (s.setCarrier x c).ptr = s.ptr := rfl
@[simp] theorem State.setCarrier_tb (x : CarrierId) (c : Carrier) :
    (s.setCarrier x c).tb = s.tb := rfl
@[simp] theorem State.setCarrier_lanes (x : CarrierId) (c : Carrier) :
    (s.setCarrier x c).lanes = s.lanes := rfl
@[simp] theorem State.setCarrier_staging (x : CarrierId) (c : Carrier) :
    (s.setCarrier x c).staging = s.staging := rfl
@[simp] theorem State.setCarrier_groups (x : CarrierId) (c : Carrier) :
    (s.setCarrier x c).groups = s.groups := rfl
@[simp] theorem State.setCarrier_inputs (x : CarrierId) (c : Carrier) :
    (s.setCarrier x c).inputs = s.inputs := rfl
@[simp] theorem State.setCarrier_capq (x : CarrierId) (c : Carrier) :
    (s.setCarrier x c).capq = s.capq := rfl
@[simp] theorem State.setCarrier_evq (x : CarrierId) (c : Carrier) :
    (s.setCarrier x c).evq = s.evq := rfl
@[simp] theorem State.setCarrier_ints (x : CarrierId) (c : Carrier) :
    (s.setCarrier x c).ints = s.ints := rfl
@[simp] theorem State.setCarrier_port (x : CarrierId) (c : Carrier) :
    (s.setCarrier x c).port = s.port := rfl
@[simp] theorem State.setCarrier_draws (x : CarrierId) (c : Carrier) :
    (s.setCarrier x c).draws = s.draws := rfl
@[simp] theorem State.setCarrier_pending (x : CarrierId) (c : Carrier) :
    (s.setCarrier x c).pending = s.pending := rfl

@[simp] theorem State.setInput_pmem (n : LineId) (l : InputLine) :
    (s.setInput n l).pmem = s.pmem := rfl
@[simp] theorem State.setInput_init (n : LineId) (l : InputLine) :
    (s.setInput n l).init = s.init := rfl
@[simp] theorem State.setInput_ptr (n : LineId) (l : InputLine) :
    (s.setInput n l).ptr = s.ptr := rfl
@[simp] theorem State.setInput_tb (n : LineId) (l : InputLine) :
    (s.setInput n l).tb = s.tb := rfl
@[simp] theorem State.setInput_lanes (n : LineId) (l : InputLine) :
    (s.setInput n l).lanes = s.lanes := rfl
@[simp] theorem State.setInput_staging (n : LineId) (l : InputLine) :
    (s.setInput n l).staging = s.staging := rfl
@[simp] theorem State.setInput_carriers (n : LineId) (l : InputLine) :
    (s.setInput n l).carriers = s.carriers := rfl
@[simp] theorem State.setInput_groups (n : LineId) (l : InputLine) :
    (s.setInput n l).groups = s.groups := rfl
@[simp] theorem State.setInput_capq (n : LineId) (l : InputLine) :
    (s.setInput n l).capq = s.capq := rfl
@[simp] theorem State.setInput_evq (n : LineId) (l : InputLine) :
    (s.setInput n l).evq = s.evq := rfl
@[simp] theorem State.setInput_ints (n : LineId) (l : InputLine) :
    (s.setInput n l).ints = s.ints := rfl
@[simp] theorem State.setInput_port (n : LineId) (l : InputLine) :
    (s.setInput n l).port = s.port := rfl
@[simp] theorem State.setInput_draws (n : LineId) (l : InputLine) :
    (s.setInput n l).draws = s.draws := rfl
@[simp] theorem State.setInput_pending (n : LineId) (l : InputLine) :
    (s.setInput n l).pending = s.pending := rfl

@[simp] theorem State.report_pmem (r : Result) (i : Index) :
    (s.report r i).pmem = s.pmem := rfl
@[simp] theorem State.report_init (r : Result) (i : Index) :
    (s.report r i).init = s.init := rfl
@[simp] theorem State.report_ptr (r : Result) (i : Index) :
    (s.report r i).ptr = s.ptr := rfl
@[simp] theorem State.report_tb (r : Result) (i : Index) :
    (s.report r i).tb = s.tb := rfl
@[simp] theorem State.report_lanes (r : Result) (i : Index) :
    (s.report r i).lanes = s.lanes := rfl
@[simp] theorem State.report_staging (r : Result) (i : Index) :
    (s.report r i).staging = s.staging := rfl
@[simp] theorem State.report_carriers (r : Result) (i : Index) :
    (s.report r i).carriers = s.carriers := rfl
@[simp] theorem State.report_groups (r : Result) (i : Index) :
    (s.report r i).groups = s.groups := rfl
@[simp] theorem State.report_inputs (r : Result) (i : Index) :
    (s.report r i).inputs = s.inputs := rfl
@[simp] theorem State.report_capq (r : Result) (i : Index) :
    (s.report r i).capq = s.capq := rfl
@[simp] theorem State.report_evq (r : Result) (i : Index) :
    (s.report r i).evq = s.evq := rfl
@[simp] theorem State.report_ints (r : Result) (i : Index) :
    (s.report r i).ints = s.ints := rfl
@[simp] theorem State.report_draws (r : Result) (i : Index) :
    (s.report r i).draws = s.draws := rfl
@[simp] theorem State.report_pending (r : Result) (i : Index) :
    (s.report r i).pending = s.pending := rfl

@[simp] theorem State.portError_pmem (c : PortCause) (i : Index) :
    (s.portError c i).pmem = s.pmem := rfl
@[simp] theorem State.portError_init (c : PortCause) (i : Index) :
    (s.portError c i).init = s.init := rfl
@[simp] theorem State.portError_ptr (c : PortCause) (i : Index) :
    (s.portError c i).ptr = s.ptr := rfl
@[simp] theorem State.portError_tb (c : PortCause) (i : Index) :
    (s.portError c i).tb = s.tb := rfl
@[simp] theorem State.portError_lanes (c : PortCause) (i : Index) :
    (s.portError c i).lanes = s.lanes := rfl
@[simp] theorem State.portError_staging (c : PortCause) (i : Index) :
    (s.portError c i).staging = s.staging := rfl
@[simp] theorem State.portError_carriers (c : PortCause) (i : Index) :
    (s.portError c i).carriers = s.carriers := rfl
@[simp] theorem State.portError_groups (c : PortCause) (i : Index) :
    (s.portError c i).groups = s.groups := rfl
@[simp] theorem State.portError_inputs (c : PortCause) (i : Index) :
    (s.portError c i).inputs = s.inputs := rfl
@[simp] theorem State.portError_capq (c : PortCause) (i : Index) :
    (s.portError c i).capq = s.capq := rfl
@[simp] theorem State.portError_evq (c : PortCause) (i : Index) :
    (s.portError c i).evq = s.evq := rfl
@[simp] theorem State.portError_draws (c : PortCause) (i : Index) :
    (s.portError c i).draws = s.draws := rfl
@[simp] theorem State.portError_pending (c : PortCause) (i : Index) :
    (s.portError c i).pending = s.pending := rfl

@[simp] theorem State.advanceFrame_pmem (d : Direction) (i : Index) :
    (s.advanceFrame d i).pmem = s.pmem := rfl
@[simp] theorem State.advanceFrame_init (d : Direction) (i : Index) :
    (s.advanceFrame d i).init = s.init := rfl
@[simp] theorem State.advanceFrame_ptr (d : Direction) (i : Index) :
    (s.advanceFrame d i).ptr = s.ptr := rfl
@[simp] theorem State.advanceFrame_tb (d : Direction) (i : Index) :
    (s.advanceFrame d i).tb = s.tb := rfl
@[simp] theorem State.advanceFrame_lanes (d : Direction) (i : Index) :
    (s.advanceFrame d i).lanes = s.lanes := rfl
@[simp] theorem State.advanceFrame_staging (d : Direction) (i : Index) :
    (s.advanceFrame d i).staging = s.staging := rfl
@[simp] theorem State.advanceFrame_carriers (d : Direction) (i : Index) :
    (s.advanceFrame d i).carriers = s.carriers := rfl
@[simp] theorem State.advanceFrame_groups (d : Direction) (i : Index) :
    (s.advanceFrame d i).groups = s.groups := rfl
@[simp] theorem State.advanceFrame_inputs (d : Direction) (i : Index) :
    (s.advanceFrame d i).inputs = s.inputs := rfl
@[simp] theorem State.advanceFrame_capq (d : Direction) (i : Index) :
    (s.advanceFrame d i).capq = s.capq := rfl
@[simp] theorem State.advanceFrame_evq (d : Direction) (i : Index) :
    (s.advanceFrame d i).evq = s.evq := rfl
@[simp] theorem State.advanceFrame_ints (d : Direction) (i : Index) :
    (s.advanceFrame d i).ints = s.ints := rfl
@[simp] theorem State.advanceFrame_draws (d : Direction) (i : Index) :
    (s.advanceFrame d i).draws = s.draws := rfl
@[simp] theorem State.advanceFrame_pending (d : Direction) (i : Index) :
    (s.advanceFrame d i).pending = s.pending := rfl

/-- A word goes on with its frame, or gives a frame its command byte: the one in progress, where that
byte is still to come, or a new one with the status byte as it stands (R162, R163). -/
theorem PortFrame.forWord_cases (status : Byte) (d : Direction) (i : Index) (f : PortFrame) :
    f.forWord status d i = f ∨
      ((f.dir = none ∨ f.cursor = none) ∧
        f.forWord status d i = ⟨f.status, some (commandDirection (commandByte d i)),
          some (commandIndex (commandByte d i))⟩) ∨
      f.forWord status d i = ⟨status, some (commandDirection (commandByte d i)),
        some (commandIndex (commandByte d i))⟩ := by
  unfold PortFrame.forWord
  split
  · split
    · exact .inl rfl
    · exact .inr (.inr rfl)
  · rename_i h
    refine .inr (.inl ⟨?_, rfl⟩)
    cases hd : f.dir with
    | none => exact .inl rfl
    | some a => cases hc : f.cursor with
      | none => exact .inr rfl
      | some b => exact absurd hc (h a b hd)
@[simp] theorem State.advanceFrame_frame_isSome (d : Direction) (i : Index) :
    (s.advanceFrame d i).port.frame.isSome = s.port.frame.isSome := by
  simp [State.advanceFrame]

@[simp] theorem State.lane_setLane_self (n : LaneId) (l : Lane) : (s.setLane n l).lane n = l := by
  simp [State.lane, State.setLane]
@[simp] theorem State.lane_setLane_ne {n m : LaneId} (l : Lane) (h : m ≠ n) :
    (s.setLane n l).lane m = s.lane m := by
  simp [State.lane, State.setLane, h]
@[simp] theorem State.setLane_lane (n : LaneId) : s.setLane n (s.lane n) = s := by
  simp [State.lane, State.setLane]
@[simp] theorem State.setLane_setLane (n : LaneId) (l k : Lane) :
    (s.setLane n l).setLane n k = s.setLane n k := by
  simp [State.setLane]
@[simp] theorem State.group_setLane (n : LaneId) (l : Lane) (g : GroupId) :
    (s.setLane n l).group g = s.group g := rfl
@[simp] theorem State.carrier_setLane (n : LaneId) (l : Lane) (x : CarrierId) :
    (s.setLane n l).carrier x = s.carrier x := rfl
@[simp] theorem State.input_setLane (n : LaneId) (l : Lane) (i : LineId) :
    (s.setLane n l).input i = s.input i := rfl
@[simp] theorem State.group_setGroup_self (g : GroupId) (x : Group) : (s.setGroup g x).group g = x := by
  simp [State.group, State.setGroup]
@[simp] theorem State.group_setGroup_ne {g h : GroupId} (x : Group) (hne : h ≠ g) :
    (s.setGroup g x).group h = s.group h := by
  simp [State.group, State.setGroup, hne]
@[simp] theorem State.lane_setGroup (g : GroupId) (x : Group) (n : LaneId) :
    (s.setGroup g x).lane n = s.lane n := rfl
@[simp] theorem State.carrier_setCarrier_self (x : CarrierId) (c : Carrier) :
    (s.setCarrier x c).carrier x = c := by
  simp [State.carrier, State.setCarrier]
@[simp] theorem State.carrier_setCarrier_ne {x y : CarrierId} (c : Carrier) (h : y ≠ x) :
    (s.setCarrier x c).carrier y = s.carrier y := by
  simp [State.carrier, State.setCarrier, h]
@[simp] theorem State.lane_setCarrier (x : CarrierId) (c : Carrier) (n : LaneId) :
    (s.setCarrier x c).lane n = s.lane n := rfl
@[simp] theorem State.input_setInput_self (i : LineId) (l : InputLine) :
    (s.setInput i l).input i = l := by
  simp [State.input, State.setInput]
@[simp] theorem State.input_setInput_ne {i j : LineId} (l : InputLine) (h : j ≠ i) :
    (s.setInput i l).input j = s.input j := by
  simp [State.input, State.setInput, h]
@[simp] theorem State.lane_setInput (i : LineId) (l : InputLine) (n : LaneId) :
    (s.setInput i l).lane n = s.lane n := rfl
@[simp] theorem State.lane_report (r : Result) (i : Index) (n : LaneId) :
    (s.report r i).lane n = s.lane n := rfl
@[simp] theorem State.group_report (r : Result) (i : Index) (g : GroupId) :
    (s.report r i).group g = s.group g := rfl
@[simp] theorem State.carrier_report (r : Result) (i : Index) (x : CarrierId) :
    (s.report r i).carrier x = s.carrier x := rfl
@[simp] theorem State.lane_advanceFrame (d : Direction) (i : Index) (n : LaneId) :
    (s.advanceFrame d i).lane n = s.lane n := rfl
@[simp] theorem State.group_advanceFrame (d : Direction) (i : Index) (g : GroupId) :
    (s.advanceFrame d i).group g = s.group g := rfl
@[simp] theorem State.carrier_advanceFrame (d : Direction) (i : Index) (x : CarrierId) :
    (s.advanceFrame d i).carrier x = s.carrier x := rfl
@[simp] theorem State.input_advanceFrame (d : Direction) (i : Index) (n : LineId) :
    (s.advanceFrame d i).input n = s.input n := rfl
@[simp] theorem State.initBusy_advanceFrame (d : Direction) (i : Index) :
    (s.advanceFrame d i).initBusy = s.initBusy := rfl
@[simp] theorem State.report_cmdResult (r : Result) (i : Index) :
    (s.report r i).port.cmdResult = ⟨r, i⟩ := rfl
@[simp] theorem State.portError_portError (c : PortCause) (i : Index) :
    (s.portError c i).ints.portError = true := rfl

/-- A data word is taken exactly where the port listens. -/
theorem hostWord_of_listens {s : State} (h : s.portListens = true) (d : Direction) (i : Index)
    (f : State → State) : hostWord d i f s = f (s.advanceFrame d i) := by
  simp [hostWord, h]
theorem hostWord_of_deaf {s : State} (h : s.portListens = false) (d : Direction) (i : Index)
    (f : State → State) : hostWord d i f s = s := by
  simp [hostWord, h]
theorem unlessHeld_of_high {s : State} (h : s.port.rstnLow = false) (f : State → State) :
    unlessHeld f s = f s := by
  simp [unlessHeld, h]
theorem unlessHeld_of_low {s : State} (h : s.port.rstnLow = true) (f : State → State) :
    unlessHeld f s = s := by
  simp [unlessHeld, h]

/-! Beginning a step, and keeping a word a host write replaces (R19). -/

@[simp] theorem Lane.beginStep_stepAddr (a : Addr) (l : Lane) :
    (l.beginStep a).stepAddr = a := rfl
@[simp] theorem Lane.beginStep_sight (a : Addr) (l : Lane) :
    (l.beginStep a).sight = some (l.sight.getD []) := rfl
@[simp] theorem Lane.beginStep_state (a : Addr) (l : Lane) :
    (l.beginStep a).state = l.state := rfl
@[simp] theorem Lane.beginStep_remaining (a : Addr) (l : Lane) :
    (l.beginStep a).remaining = l.remaining := rfl
@[simp] theorem Lane.beginStep_level (a : Addr) (l : Lane) :
    (l.beginStep a).level = l.level := rfl
@[simp] theorem Lane.beginStep_rest (a : Addr) (l : Lane) :
    (l.beginStep a).rest = l.rest := rfl
@[simp] theorem Lane.beginStep_stack (a : Addr) (l : Lane) :
    (l.beginStep a).stack = l.stack := rfl
@[simp] theorem Lane.beginStep_zeroRun (a : Addr) (l : Lane) :
    (l.beginStep a).zeroRun = l.zeroRun := rfl
@[simp] theorem Lane.beginStep_passesDone (a : Addr) (l : Lane) :
    (l.beginStep a).passesDone = l.passesDone := rfl
@[simp] theorem Lane.beginStep_splicePending (a : Addr) (l : Lane) :
    (l.beginStep a).splicePending = l.splicePending := rfl
@[simp] theorem Lane.beginStep_stopPending (a : Addr) (l : Lane) :
    (l.beginStep a).stopPending = l.stopPending := rfl
@[simp] theorem Lane.beginStep_waitSource (a : Addr) (l : Lane) :
    (l.beginStep a).waitSource = l.waitSource := rfl
@[simp] theorem Lane.beginStep_waitStrict (a : Addr) (l : Lane) :
    (l.beginStep a).waitStrict = l.waitStrict := rfl
@[simp] theorem Lane.beginStep_waitSatisfied (a : Addr) (l : Lane) :
    (l.beginStep a).waitSatisfied = l.waitSatisfied := rfl
@[simp] theorem Lane.beginStep_cause (a : Addr) (l : Lane) :
    (l.beginStep a).cause = l.cause := rfl
@[simp] theorem Lane.beginStep_holdoverSeen (a : Addr) (l : Lane) :
    (l.beginStep a).holdoverSeen = l.holdoverSeen := rfl
@[simp] theorem Lane.beginStep_boundaryTaken (a : Addr) (l : Lane) :
    (l.beginStep a).boundaryTaken = l.boundaryTaken := rfl
@[simp] theorem Lane.beginStep_ownDue (a : Addr) (l : Lane) :
    (l.beginStep a).ownDue = l.ownDue := rfl
@[simp] theorem Lane.beginStep_sinceBoundary (a : Addr) (l : Lane) :
    (l.beginStep a).sinceBoundary = l.sinceBoundary := rfl
@[simp] theorem Lane.beginStep_cfg (a : Addr) (l : Lane) :
    (l.beginStep a).cfg = l.cfg := rfl
@[simp] theorem Lane.beginStep_gate (a : Addr) (l : Lane) :
    (l.beginStep a).gate = l.gate := rfl
@[simp] theorem Lane.beginStep_trail (a : Addr) (l : Lane) :
    (l.beginStep a).trail = l.trail := rfl
@[simp] theorem Lane.beginStep_queue (a : Addr) (l : Lane) :
    (l.beginStep a).queue = l.queue := rfl
@[simp] theorem Lane.keepWord_state (a : Addr) (w : Word) (l : Lane) :
    (l.keepWord a w).state = l.state := rfl
@[simp] theorem Lane.keepWord_stepAddr (a : Addr) (w : Word) (l : Lane) :
    (l.keepWord a w).stepAddr = l.stepAddr := rfl
@[simp] theorem Lane.keepWord_remaining (a : Addr) (w : Word) (l : Lane) :
    (l.keepWord a w).remaining = l.remaining := rfl
@[simp] theorem Lane.keepWord_level (a : Addr) (w : Word) (l : Lane) :
    (l.keepWord a w).level = l.level := rfl
@[simp] theorem Lane.keepWord_rest (a : Addr) (w : Word) (l : Lane) :
    (l.keepWord a w).rest = l.rest := rfl
@[simp] theorem Lane.keepWord_stack (a : Addr) (w : Word) (l : Lane) :
    (l.keepWord a w).stack = l.stack := rfl
@[simp] theorem Lane.keepWord_zeroRun (a : Addr) (w : Word) (l : Lane) :
    (l.keepWord a w).zeroRun = l.zeroRun := rfl
@[simp] theorem Lane.keepWord_passesDone (a : Addr) (w : Word) (l : Lane) :
    (l.keepWord a w).passesDone = l.passesDone := rfl
@[simp] theorem Lane.keepWord_splicePending (a : Addr) (w : Word) (l : Lane) :
    (l.keepWord a w).splicePending = l.splicePending := rfl
@[simp] theorem Lane.keepWord_stopPending (a : Addr) (w : Word) (l : Lane) :
    (l.keepWord a w).stopPending = l.stopPending := rfl
@[simp] theorem Lane.keepWord_waitSource (a : Addr) (w : Word) (l : Lane) :
    (l.keepWord a w).waitSource = l.waitSource := rfl
@[simp] theorem Lane.keepWord_waitStrict (a : Addr) (w : Word) (l : Lane) :
    (l.keepWord a w).waitStrict = l.waitStrict := rfl
@[simp] theorem Lane.keepWord_waitSatisfied (a : Addr) (w : Word) (l : Lane) :
    (l.keepWord a w).waitSatisfied = l.waitSatisfied := rfl
@[simp] theorem Lane.keepWord_cause (a : Addr) (w : Word) (l : Lane) :
    (l.keepWord a w).cause = l.cause := rfl
@[simp] theorem Lane.keepWord_holdoverSeen (a : Addr) (w : Word) (l : Lane) :
    (l.keepWord a w).holdoverSeen = l.holdoverSeen := rfl
@[simp] theorem Lane.keepWord_boundaryTaken (a : Addr) (w : Word) (l : Lane) :
    (l.keepWord a w).boundaryTaken = l.boundaryTaken := rfl
@[simp] theorem Lane.keepWord_ownDue (a : Addr) (w : Word) (l : Lane) :
    (l.keepWord a w).ownDue = l.ownDue := rfl
@[simp] theorem Lane.keepWord_sinceBoundary (a : Addr) (w : Word) (l : Lane) :
    (l.keepWord a w).sinceBoundary = l.sinceBoundary := rfl
@[simp] theorem Lane.keepWord_cfg (a : Addr) (w : Word) (l : Lane) :
    (l.keepWord a w).cfg = l.cfg := rfl
@[simp] theorem Lane.keepWord_gate (a : Addr) (w : Word) (l : Lane) :
    (l.keepWord a w).gate = l.gate := rfl
@[simp] theorem Lane.keepWord_trail (a : Addr) (w : Word) (l : Lane) :
    (l.keepWord a w).trail = l.trail := rfl
@[simp] theorem Lane.keepWord_queue (a : Addr) (w : Word) (l : Lane) :
    (l.keepWord a w).queue = l.queue := rfl
@[simp] theorem Lane.keepWord_sight_none (a : Addr) (w : Word) (l : Lane) :
    (l.keepWord a w).sight = none ↔ l.sight = none := by
  simp [Lane.keepWord]

end Sys2Proof.Machine
end

