-- ==== Sys2Proof/Laws/Queues.lean ====
section
/-! SUPPORT. What the queues' shared operations can do, said once for each. -/

namespace Sys2Proof.Machine

theorem EventQueue.canPlace_iff (q : EventQueue) :
    q.canPlace = true ↔ q.placed.length < 32 ∧ q.deferral = [] := by
  simp [EventQueue.canPlace]

@[simp] theorem EventQueue.place_placed (q : EventQueue) (r : EventRecord) :
    (q.place r).placed = q.placed ++ [{ r with droppedBefore := q.dropped }] := rfl
@[simp] theorem EventQueue.place_deferral (q : EventQueue) (r : EventRecord) :
    (q.place r).deferral = q.deferral := rfl
@[simp] theorem EventQueue.place_dropped (q : EventQueue) (r : EventRecord) :
    (q.place r).dropped = 0 := rfl

/-- An informational record is placed or dropped, and nothing else changes. -/
theorem offerInfo_cases (b : EventBody) (s : State) :
    (s.evq.canPlace = true ∧
      offerInfo b s = { s with evq := s.evq.place ⟨s.tb.time, 0, b⟩ }) ∨
    (s.evq.canPlace = false ∧
      offerInfo b s =
        { s with
          evq := { s.evq with dropped := satSucc s.evq.dropped }
          ints := { s.ints with evqDrop := true } }) := by
  unfold offerInfo
  by_cases h : s.evq.canPlace = true
  · exact .inl ⟨h, by simp [h]⟩
  · exact .inr ⟨by simpa using h, by simp [h]⟩

/-- A lane with one more AWAIT_POST slot. -/
def Lane.withHeld (l : Lane) (h : HeldSlot) : Lane :=
  { l with queue := { l.queue with awaiting := l.queue.awaiting ++ [h] } }

/-- A terminal record is placed, or deferred in a slot at the back of its lane's queue, and nothing
else changes. -/
theorem postTerminal_cases (n : LaneId) (d : Descriptor) (b : EventBody) (s : State) :
    (s.evq.canPlace = true ∧
      postTerminal n d b s = { s with evq := s.evq.place ⟨s.tb.time, 0, b⟩ }) ∨
    (s.evq.canPlace = false ∧
      postTerminal n d b s =
        { s.setLane n ((s.lane n).withHeld ⟨d, ⟨s.tb.time, 0, b⟩⟩) with
          evq := { s.evq with deferral := s.evq.deferral ++ [.lane n] } }) := by
  unfold postTerminal
  by_cases h : s.evq.canPlace = true
  · exact .inl ⟨h, by simp [h]⟩
  · exact .inr ⟨by simpa using h, by simp [h, Lane.withHeld]⟩

/-- A loss or a lock updates the pending record, or makes a record that is placed or pends, and
nothing else changes. -/
theorem recordTimebase_cases (st : TbState) (loss lock : Bool) (s : State) :
    (∃ r r', s.tb.record = some r ∧
      recordTimebase st loss lock s = { s with tb := { s.tb with record := some r' } }) ∨
    (∃ r : TimebaseRecord, s.tb.record = none ∧ s.evq.canPlace = true ∧
      recordTimebase st loss lock s = { s with evq := s.evq.place r.event }) ∨
    (∃ r, s.tb.record = none ∧ s.evq.canPlace = false ∧
      recordTimebase st loss lock s =
        { s with
          tb := { s.tb with record := some r }
          evq := { s.evq with deferral := s.evq.deferral ++ [.timebase] } }) := by
  unfold recordTimebase
  cases h : s.tb.record with
  | some r => exact .inl ⟨r, _, rfl, rfl⟩
  | none =>
    by_cases hp : s.evq.canPlace = true
    · exact .inr (.inl ⟨⟨st, if loss then 1 else 0, if lock then 1 else 0, s.tb.time⟩, rfl, hp,
        by simp only [hp, if_true]⟩)
    · exact .inr (.inr ⟨⟨st, if loss then 1 else 0, if lock then 1 else 0, s.tb.time⟩, rfl,
        by simpa using hp, by simp only [hp]; rfl⟩)

/-- A capture record is stored or dropped, and nothing else changes. -/
theorem offerCapture_cases (r : CaptureRecord) (s : State) :
    (s.capq.records.length < 32 ∧
      offerCapture r s =
        { s with
          capq := { s.capq with
            records := s.capq.records ++ [{ r with gap := s.capq.gap }], gap := 0 } }) ∨
    (32 ≤ s.capq.records.length ∧
      offerCapture r s =
        { s with
          capq := { s.capq with gap := satSucc s.capq.gap }
          ints := { s.ints with capqGap := true } }) := by
  unfold offerCapture
  by_cases h : s.capq.records.length < 32
  · exact .inl ⟨h, by simp [h]⟩
  · exact .inr ⟨by omega, by simp [h]⟩

/-- The order of R152 keeps the entries. -/
theorem insertEntry_perm (e : DeferralEntry) (l : List DeferralEntry) :
    (insertEntry e l).Perm (e :: l) := by
  induction l with
  | nil => exact List.Perm.refl _
  | cons x rest ih =>
    simp only [insertEntry]
    split
    · exact List.Perm.refl _
    · exact (List.Perm.cons x ih).trans (List.Perm.swap e x rest)

theorem foldl_insertEntry_perm (l acc : List DeferralEntry) :
    (l.foldl (fun a e => insertEntry e a) acc).Perm (acc ++ l) := by
  induction l generalizing acc with
  | nil => simp
  | cons e rest ih =>
    refine (ih (insertEntry e acc)).trans ?_
    refine ((insertEntry_perm e acc).append_right rest).trans ?_
    simpa using List.perm_middle.symm

/-- Sorting the entries of one event loses none and adds none. -/
theorem sortEntries_perm (l : List DeferralEntry) : (sortEntries l).Perm l := by
  simpa [sortEntries] using foldl_insertEntry_perm l []

@[simp] theorem sortEntries_length (l : List DeferralEntry) : (sortEntries l).length = l.length :=
  (sortEntries_perm l).length_eq

/-- The order drawn for events that fall due together keeps the events. -/
theorem insertRanked_perm (k : Nat) (c : Instr) (l : List Instr) :
    (insertRanked k c l).Perm (c :: l) := by
  induction l with
  | nil => exact List.Perm.refl _
  | cons d rest ih =>
    simp only [insertRanked]
    split
    · exact List.Perm.refl _
    · exact (List.Perm.cons d ih).trans (List.Perm.swap c d rest)

theorem ranked_perm (k : Nat) (l : List Instr) : (ranked k l).Perm l := by
  induction l with
  | nil => exact List.Perm.refl _
  | cons c rest ih =>
    exact (insertRanked_perm k c (ranked k rest)).trans (List.Perm.cons c ih)

end Sys2Proof.Machine
end

