-- ==== Sys2Proof/Laws/LaneRun.lean ====
section
/-! SUPPORT. What a run of lane work can touch: only lanes, groups, the carriers' pending pairs, the
Event Queue and EVQ_DROP. -/

namespace Sys2Proof.Machine

/-- What every lane operation leaves as it stands. -/
structure RunKeeps (s t : State) : Prop where
  pmem : t.pmem = s.pmem
  init : t.init = s.init
  ptr : t.ptr = s.ptr
  tb : t.tb = s.tb
  staging : t.staging = s.staging
  inputs : t.inputs = s.inputs
  capq : t.capq = s.capq
  capqGap : t.ints.capqGap = s.ints.capqGap
  portError : t.ints.portError = s.ints.portError
  enable : t.ints.enable = s.ints.enable
  port : t.port = s.port
  draws : t.draws = s.draws
  pending : t.pending = s.pending

theorem RunKeeps.refl (s : State) : RunKeeps s s :=
  ⟨rfl, rfl, rfl, rfl, rfl, rfl, rfl, rfl, rfl, rfl, rfl, rfl, rfl⟩

theorem RunKeeps.trans {s t u : State} (h : RunKeeps s t) (k : RunKeeps t u) : RunKeeps s u :=
  ⟨k.pmem.trans h.pmem, k.init.trans h.init, k.ptr.trans h.ptr, k.tb.trans h.tb,
    k.staging.trans h.staging, k.inputs.trans h.inputs, k.capq.trans h.capq,
    k.capqGap.trans h.capqGap, k.portError.trans h.portError, k.enable.trans h.enable,
    k.port.trans h.port, k.draws.trans h.draws, k.pending.trans h.pending⟩

theorem RunKeeps.setLane (s : State) (n : LaneId) (l : Lane) : RunKeeps s (s.setLane n l) :=
  ⟨rfl, rfl, rfl, rfl, rfl, rfl, rfl, rfl, rfl, rfl, rfl, rfl, rfl⟩

theorem RunKeeps.setGroup (s : State) (g : GroupId) (x : Group) : RunKeeps s (s.setGroup g x) :=
  ⟨rfl, rfl, rfl, rfl, rfl, rfl, rfl, rfl, rfl, rfl, rfl, rfl, rfl⟩

theorem RunKeeps.lanes (s : State) (v : PerLane Lane) : RunKeeps s { s with lanes := v } :=
  ⟨rfl, rfl, rfl, rfl, rfl, rfl, rfl, rfl, rfl, rfl, rfl, rfl, rfl⟩

theorem RunKeeps.offerInfo (b : EventBody) (s : State) :
    RunKeeps s (Sys2Proof.Machine.offerInfo b s) := by
  rcases offerInfo_cases b s with ⟨_, h⟩ | ⟨_, h⟩ <;> rw [h] <;> constructor <;> rfl

theorem RunKeeps.postTerminal (n : LaneId) (d : Descriptor) (b : EventBody) (s : State) :
    RunKeeps s (Sys2Proof.Machine.postTerminal n d b s) := by
  rcases postTerminal_cases n d b s with ⟨_, h⟩ | ⟨_, h⟩ <;> rw [h] <;> constructor <;> rfl

theorem RunKeeps.depart (n : LaneId) (s : State) : RunKeeps s (Sys2Proof.Machine.depart n s) :=
  ⟨rfl, rfl, rfl, rfl, rfl, rfl, rfl, rfl, rfl, rfl, rfl, rfl, rfl⟩

theorem RunKeeps.enterFault (c : FaultCause) (n : LaneId) (s : State) :
    RunKeeps s (Sys2Proof.Machine.enterFault c n s) := by
  unfold Sys2Proof.Machine.enterFault
  dsimp only
  split
  · exact .setLane ..
  · exact (RunKeeps.setLane ..).trans (.postTerminal ..)

theorem RunKeeps.emptyArrived (gs : List GroupId) (s : State) :
    RunKeeps s (Sys2Proof.Machine.emptyArrived gs s) :=
  ⟨rfl, rfl, rfl, rfl, rfl, rfl, rfl, rfl, rfl, rfl, rfl, rfl, rfl⟩

theorem RunKeeps.breakBarriers (ls : List LaneId) (s : State) :
    RunKeeps s (Sys2Proof.Machine.breakBarriers ls s).1 :=
  (RunKeeps.emptyArrived ..).trans (.emptyArrived ..)

theorem RunKeeps.foldl {β : Type} (f : State → β → State) (hf : ∀ s b, RunKeeps s (f s b))
    (l : List β) (s : State) : RunKeeps s (l.foldl f s) := by
  induction l generalizing s with
  | nil => exact .refl s
  | cons b rest ih => exact (hf s b).trans (ih (f s b))

theorem RunKeeps.faultLane (c : FaultCause) (n : LaneId) (s : State) :
    RunKeeps s (Sys2Proof.Machine.faultLane c n s) := by
  unfold Sys2Proof.Machine.faultLane
  exact ((RunKeeps.depart n s).trans (.breakBarriers ..)).trans
    ((RunKeeps.enterFault ..).trans (.foldl _ (fun t m => .enterFault _ m t) _ _))

theorem RunKeeps.releaseGroup (g : GroupId) (b : Bool) (s : State) :
    RunKeeps s (Sys2Proof.Machine.releaseGroup g b s).1 := by
  unfold Sys2Proof.Machine.releaseGroup
  dsimp only
  split
  · exact (RunKeeps.setGroup ..).trans (.offerInfo ..)
  · exact ((RunKeeps.setGroup ..).trans (.offerInfo ..)).trans (.lanes ..)

theorem RunKeeps.arrive (g : GroupId) (n : LaneId) (b : Bool) (s : State) :
    RunKeeps s (Sys2Proof.Machine.arrive g n b s).1 := by
  unfold Sys2Proof.Machine.arrive
  dsimp only
  split
  · exact (RunKeeps.setGroup ..).trans (.releaseGroup ..)
  · exact .setGroup ..

theorem RunKeeps.startNow (n : LaneId) (b : Bool) (s : State) :
    RunKeeps s (Sys2Proof.Machine.startNow n b s).1 := by
  unfold Sys2Proof.Machine.startNow
  split
  · exact .refl s
  · exact .setLane ..

theorem RunKeeps.applyStart (n : LaneId) (c : StartCond) (b : Bool) (s : State) :
    RunKeeps s (Sys2Proof.Machine.applyStart n c b s).1 := by
  unfold Sys2Proof.Machine.applyStart
  split
  · exact .startNow ..
  · split
    · exact .refl s
    · exact .startNow ..
  · exact .refl s
  · split
    · exact .faultLane ..
    · split
      · exact .faultLane ..
      · exact .arrive ..

theorem RunKeeps.activate (n : LaneId) (b : Bool) (s : State) :
    RunKeeps s (Sys2Proof.Machine.activate n b s).1 := by
  unfold Sys2Proof.Machine.activate
  dsimp only
  split
  · exact .refl s
  · exact (RunKeeps.setLane ..).trans (.applyStart ..)

theorem RunKeeps.retire (n : LaneId) (e : Ending) (b : Bool) (s : State) :
    RunKeeps s (Sys2Proof.Machine.retire n e b s).1 := by
  unfold Sys2Proof.Machine.retire
  dsimp only
  split
  · exact .refl s
  · split
    · exact ((RunKeeps.setLane ..).trans (.postTerminal ..)).trans (.setLane ..)
    · exact ((RunKeeps.setLane ..).trans (.postTerminal ..)).trans (.activate ..)

theorem RunKeeps.endPass (n : LaneId) (s : State) :
    RunKeeps s (Sys2Proof.Machine.endPass n s).1 := by
  unfold Sys2Proof.Machine.endPass
  dsimp only
  split
  · exact .refl s
  · split
    · exact (RunKeeps.setLane ..).trans (.retire ..)
    · split
      · exact (RunKeeps.setLane ..).trans (.retire ..)
      · exact .setLane ..

theorem RunKeeps.setPendingPair (x : CarrierId) (p : WidthPair) (s : State) :
    RunKeeps s (Sys2Proof.Machine.setPendingPair x p s) :=
  ⟨rfl, rfl, rfl, rfl, rfl, rfl, rfl, rfl, rfl, rfl, rfl, rfl, rfl⟩

theorem RunKeeps.executeStep (n : LaneId) (a : Addr) (r : StepRecord) (s : State) :
    RunKeeps s (Sys2Proof.Machine.executeStep n a r s).1 := by
  unfold Sys2Proof.Machine.executeStep
  dsimp only
  split
  · exact .setLane ..
  · exact .setLane ..
  · split <;> exact (RunKeeps.setLane ..).trans (.arrive ..)
  · split
    · exact .setLane ..
    · exact .faultLane ..
  · split
    · split <;> exact .setLane ..
    · exact .faultLane ..
  · split
    · exact .setLane ..
    · exact .faultLane ..
  · split
    · exact .setLane ..
    · exact .faultLane ..
  · exact .refl s
  · exact .offerInfo ..
  · exact .setPendingPair ..
  · split
    · exact .endPass ..
    · exact .faultLane ..

theorem RunKeeps.budgetStep (n : LaneId) (a : Addr) (r : StepRecord) (s : State) :
    RunKeeps s (Sys2Proof.Machine.budgetStep n a r s).1 := by
  unfold Sys2Proof.Machine.budgetStep
  split
  · split
    · exact .faultLane ..
    · exact (RunKeeps.setLane ..).trans (.executeStep ..)
  · exact .executeStep ..

theorem RunKeeps.takeStep (n : LaneId) (a : Addr) (s : State) :
    RunKeeps s (Sys2Proof.Machine.takeStep n a s).1 := by
  unfold Sys2Proof.Machine.takeStep
  dsimp only
  split
  · exact (RunKeeps.setLane ..).trans (.faultLane ..)
  · split
    · exact (RunKeeps.setLane ..).trans (.retire ..)
    · split
      · split
        · exact (RunKeeps.setLane ..).trans (.faultLane ..)
        · split
          · exact (RunKeeps.setLane ..).trans (.faultLane ..)
          · exact (RunKeeps.setLane ..).trans (.budgetStep ..)
      · exact (RunKeeps.setLane ..).trans (.budgetStep ..)

theorem RunKeeps.doWork (w : Work) (s : State) :
    RunKeeps s (Sys2Proof.Machine.doWork w s).1 := by
  unfold Sys2Proof.Machine.doWork
  split
  · exact .takeStep ..
  · unfold Sys2Proof.Machine.startLaunch
    dsimp only
    split
    · exact .refl s
    · exact .setLane ..
  · unfold Sys2Proof.Machine.stepReleased
    dsimp only
    split
    · exact .setLane ..
    · exact .setLane ..
    · exact .refl s
    · exact .refl s
    · exact .refl s

/-- A property that every piece of work keeps holds after the run. -/
theorem runWork_keeps {P : State → Prop} (hP : ∀ w s, P s → P (doWork w s).1) (k : Nat)
    (ws : List Work) (s : State) (h : P s) : P (runWork k ws s).1 := by
  induction k generalizing ws s with
  | zero => cases ws <;> exact h
  | succ k ih =>
    cases ws with
    | nil => exact h
    | cons w ws => exact ih _ _ (hP w s h)

theorem RunKeeps.runWork (k : Nat) (ws : List Work) (s : State) :
    RunKeeps s (Sys2Proof.Machine.runWork k ws s).1 :=
  runWork_keeps (P := RunKeeps s) (fun w t h => h.trans (.doWork w t)) k ws s (.refl s)

theorem RunKeeps.landSplice (n : LaneId) (s : State) :
    RunKeeps s (Sys2Proof.Machine.landSplice n s).1 :=
  (RunKeeps.depart n s).trans (.retire ..)

theorem RunKeeps.expireWait (n : LaneId) (s : State) :
    RunKeeps s (Sys2Proof.Machine.expireWait n s).1 := by
  unfold Sys2Proof.Machine.expireWait
  dsimp only
  split
  · exact ((RunKeeps.setLane ..).trans (.depart ..)).trans (.faultLane ..)
  · split
    · exact ((RunKeeps.setLane ..).trans (.depart ..)).trans (.offerInfo ..)
    · exact (RunKeeps.setLane ..).trans (.depart ..)

theorem RunKeeps.ownActions (n : LaneId) (s : State) :
    RunKeeps s (Sys2Proof.Machine.ownActions n s).1 := by
  unfold Sys2Proof.Machine.ownActions
  dsimp only
  split
  · exact .setLane ..
  · refine (RunKeeps.setLane s n ((s.lane n).takeBoundary s.tb.handedSet)).trans ?_
    split
    · exact .refl _
    · split
      · unfold armedBoundary
        split
        · exact .landSplice ..
        · split <;> exact .refl _
      · exact .setLane ..
      · unfold waitingBoundary
        dsimp only
        split
        · exact .landSplice ..
        · split
          · exact .setLane ..
          · split
            · exact .refl _
            · split
              · exact (RunKeeps.setLane ..).trans (.expireWait ..)
              · exact .setLane ..
      · exact .refl _
      · exact .refl _

theorem RunKeeps.settle (old new : State) : RunKeeps new (Sys2Proof.Machine.settle old new) :=
  ⟨rfl, rfl, rfl, rfl, rfl, rfl, rfl, rfl, rfl, rfl, rfl, rfl, rfl⟩

/-- A lane's own event answers only the settled state of a run that left no work. -/
theorem laneEvent_next {n : LaneId} {s t : State} (h : laneEvent n s = .next t) :
    (runWork stepBudget (ownActions n s).2 (ownActions n s).1).2 = [] ∧
      t = settle s (runWork stepBudget (ownActions n s).2 (ownActions n s).1).1 := by
  unfold laneEvent outcomeOf at h
  split at h
  · next hw => exact ⟨hw, by injection h with h; exact h.symm⟩
  · cases h

/-- A lane's own event touches nothing but lanes, groups, pending pairs, the Event Queue and
EVQ_DROP. -/
theorem RunKeeps.laneEvent {n : LaneId} {s t : State}
    (h : Sys2Proof.Machine.laneEvent n s = .next t) : RunKeeps s t := by
  obtain ⟨_, rfl⟩ := laneEvent_next h
  exact ((RunKeeps.ownActions n s).trans (.runWork ..)).trans (.settle ..)

/-! ## Running the work by hand -/

/-- The budget is not spent at the first piece of work. -/
theorem stepBudget_succ : ∃ k, stepBudget = k + 2 := ⟨stepBudget - 2, by
  have : 2 ≤ stepBudget := by
    unfold stepBudget
    exact le_trans (by norm_num : 2 ≤ 2 ^ 250) (Nat.le_self_pow (by norm_num) _)
  omega⟩

@[simp] theorem runWork_nil (k : Nat) (s : State) : runWork k [] s = (s, []) := by
  cases k <;> rfl

theorem runWork_cons (k : Nat) (w : Work) (ws : List Work) (s : State) :
    runWork (k + 1) (w :: ws) s = runWork k ((doWork w s).2 ++ ws) (doWork w s).1 := rfl

/-- A run of one piece of work that leaves none. -/
theorem runWork_single {w : Work} {s : State} (h : (doWork w s).2 = []) :
    runWork stepBudget [w] s = ((doWork w s).1, []) := by
  obtain ⟨k, hk⟩ := stepBudget_succ
  rw [hk, runWork_cons, h]
  simp

/-- A run of one piece of work that leaves one that leaves none. -/
theorem runWork_pair {w v : Work} {s : State} (h : (doWork w s).2 = [v])
    (h2 : (doWork v (doWork w s).1).2 = []) :
    runWork stepBudget [w] s = ((doWork v (doWork w s).1).1, []) := by
  obtain ⟨k, hk⟩ := stepBudget_succ
  rw [hk, runWork_cons, h]
  simp only [List.append_nil]
  rw [runWork_cons, h2]
  simp

/-! ## The end of an event -/

/-- A lane that calls for the same carrier before and after an event keeps its gate. -/
theorem judgeSegment_same {cs : PerCarrier Carrier} {a b : Lane} (h : a.called = b.called) :
    judgeSegment cs a b = b := by
  simp [judgeSegment, h]

@[simp] theorem settle_lane (old new : State) (n : LaneId) :
    (settle old new).lane n = judgeSegment new.carriers (old.lane n) (new.lane n) := by
  simp [settle, State.lane]

@[simp] theorem settle_groups (old new : State) : (settle old new).groups = new.groups := rfl
@[simp] theorem settle_carriers (old new : State) : (settle old new).carriers = new.carriers := rfl
@[simp] theorem settle_placed (old new : State) : (settle old new).evq.placed = new.evq.placed :=
  rfl
@[simp] theorem settle_ints (old new : State) : (settle old new).ints = new.ints := rfl

/-- The deferral list of an event that deferred nothing stands as it was. -/
theorem settle_deferral_same {old new : State} (h : new.evq.deferral = old.evq.deferral) :
    (settle old new).evq.deferral = old.evq.deferral := by
  simp [settle, h, sortEntries]

end Sys2Proof.Machine
end

