-- ==== Sys2Proof/Laws/LaneEvent.lean ====
section
/-! SUPPORT. What a lane's own event comes to in the common cases, said once: an event that changes
one lane, one that ends with a HOLD begun, and the fields of an event's settled state. -/

namespace Sys2Proof.Machine

/-- Settling an event that changed one lane and deferred at most one record judges that lane's gate
and nothing else. -/
theorem settle_one {s t : State} {n : LaneId} {x : Lane} (hl : t.lanes = s.lanes.set n x)
    (hd : t.evq.deferral = s.evq.deferral ∨ ∃ e, t.evq.deferral = s.evq.deferral ++ [e]) :
    settle s t = t.setLane n (judgeSegment t.carriers (s.lane n) x) := by
  have h1 : (PerLane.build fun m => judgeSegment t.carriers (s.lane m) (t.lane m))
      = t.lanes.set n (judgeSegment t.carriers (s.lane n) x) := by
    apply PerLane.ext_get
    intro m
    rw [PerLane.get_build]
    by_cases hm : m = n
    · subst hm; simp [State.lane, hl]
    · rw [PerLane.get_set_ne _ _ hm]
      have : t.lane m = s.lane m := by simp [State.lane, hl, hm]
      rw [this, judgeSegment_same rfl, hl, PerLane.get_set_ne _ _ hm]
      rfl
  have h2 : t.evq.deferral.take s.evq.deferral.length
      ++ sortEntries (t.evq.deferral.drop s.evq.deferral.length) = t.evq.deferral := by
    rcases hd with h | ⟨e, h⟩ <;> rw [h] <;> simp [sortEntries, insertEntry]
  unfold settle State.setLane
  rw [h1, h2]

/-- Settling an event that changed no lane, and deferred at most one record, changes nothing. -/
theorem settle_none {s t : State} (hl : t.lanes = s.lanes)
    (hd : t.evq.deferral = s.evq.deferral ∨ ∃ e, t.evq.deferral = s.evq.deferral ++ [e]) :
    settle s t = t := by
  have h : t.lanes = s.lanes.set .l0 (s.lane .l0) := by rw [hl]; exact (PerLane.set_get _ _).symm
  rw [settle_one h hd, judgeSegment_same rfl]
  have : s.lane .l0 = t.lane .l0 := by rw [State.lane, State.lane, hl]
  rw [this, State.setLane_lane]

/-- Settling an event whose last change was to the one lane it changed. -/
theorem settle_setLane {s u : State} {n : LaneId} {x : Lane}
    (hl : u.lanes = s.lanes ∨ ∃ y, u.lanes = s.lanes.set n y)
    (hd : u.evq.deferral = s.evq.deferral ∨ ∃ e, u.evq.deferral = s.evq.deferral ++ [e]) :
    settle s (u.setLane n x) = u.setLane n (judgeSegment u.carriers (s.lane n) x) := by
  have h : (u.setLane n x).lanes = s.lanes.set n x := by
    rcases hl with h | ⟨y, h⟩ <;> simp [State.setLane, h]
  rw [settle_one h hd]
  simp

/-- What a lane fetches follows from its own sight and the memory alone. -/
theorem State.fetchWord_setLane_sight {s : State} {n : LaneId} {x : Lane} (a : Addr)
    (h : x.sight = (s.lane n).sight) : (s.setLane n x).fetchWord n a = s.fetchWord n a := by
  simp [State.fetchWord, h]

/-- A lane that has begun no step at this boundary fetches what is stored. -/
theorem State.fetchWord_none {s : State} {n : LaneId} (a : Addr) (h : (s.lane n).sight = none) :
    s.fetchWord n a = s.pmem.read a := by
  simp [State.fetchWord, h]

/-- Beginning a step changes no word the lane fetches. -/
theorem State.fetchWord_beginStep (s : State) (n : LaneId) (a b : Addr) :
    (s.setLane n ((s.lane n).beginStep a)).fetchWord n b = s.fetchWord n b := by
  cases h : (s.lane n).sight <;> simp [State.fetchWord, Lane.beginStep, h, keptWord]

/-- The step of a lane at a HOLD: it runs the HOLD, and its run ends. -/
theorem doWork_hold {n : LaneId} {a : Addr} {s : State} {level : StepLevel} {d : BitVec 20}
    (hd : decodeStep (s.fetchWord n a) = some (.hold level d))
    (hp : (s.lane n).splicePending = false) :
    doWork (.step n a) s =
      (s.setLane n
        { s.lane n with
          state := .running, stepAddr := a, level := some level, remaining := d, zeroRun := 0
          sight := some ((s.lane n).sight.getD []) },
        []) := by
  simp [doWork, takeStep, hd, hp, budgetStep, zeroDuration, executeStep, Lane.beginHold,
    Lane.beginStep]

/-- A lane event whose first actions leave no work. -/
theorem laneEvent_idle {n : LaneId} {s s1 : State} (h : ownActions n s = (s1, [])) :
    laneEvent n s = .next (settle s s1) := by
  simp [laneEvent, outcomeOf, h]

/-- A lane event that begins one step, at a HOLD. -/
theorem laneEvent_hold {n : LaneId} {s s1 : State} {a : Addr} {level : StepLevel} {d : BitVec 20}
    (h : ownActions n s = (s1, [.step n a]))
    (hd : decodeStep (s1.fetchWord n a) = some (.hold level d))
    (hp : (s1.lane n).splicePending = false) :
    laneEvent n s = .next (settle s
      (s1.setLane n
        { s1.lane n with
          state := .running, stepAddr := a, level := some level, remaining := d, zeroRun := 0
          sight := some ((s1.lane n).sight.getD []) })) := by
  have hw := doWork_hold (n := n) hd hp
  simp only [laneEvent, outcomeOf, h]
  rw [runWork_single (by rw [hw])]
  simp [hw]

/-- A lane event that starts a launch whose entry holds a HOLD. -/
theorem laneEvent_start {n : LaneId} {s s1 : State} {x : Launch} {level : StepLevel}
    {d : BitVec 20} (h : ownActions n s = (s1, [.start n]))
    (hx : (s1.lane n).queue.active = some x)
    (hd : decodeStep (s1.fetchWord n x.desc.entry) = some (.hold level d))
    (hp : (s1.lane n).splicePending = false) :
    laneEvent n s = .next (settle s
      (s1.setLane n
        { (s1.lane n).launched (x.started s1.tb.time) with
          state := .running, stepAddr := x.desc.entry, level := some level, remaining := d
          zeroRun := 0, sight := some ((s1.lane n).sight.getD []) })) := by
  have h1 : doWork (.start n) s1 =
      (s1.setLane n ((s1.lane n).launched (x.started s1.tb.time)), [.step n x.desc.entry]) := by
    simp [doWork, startLaunch, hx]
  have hd' : decodeStep ((s1.setLane n ((s1.lane n).launched (x.started s1.tb.time))).fetchWord n
      x.desc.entry) = some (.hold level d) := by
    rw [State.fetchWord_setLane_sight (x := (s1.lane n).launched (x.started s1.tb.time))
      x.desc.entry rfl, hd]
  have h2 := doWork_hold (n := n) (s := s1.setLane n ((s1.lane n).launched (x.started s1.tb.time)))
    (a := x.desc.entry) hd' (by simpa [Lane.launched] using hp)
  simp only [laneEvent, outcomeOf, h]
  rw [runWork_pair (v := .step n x.desc.entry) (by rw [h1]) (by rw [h1]; simp only; rw [h2])]
  simp only [h1, h2]
  simp [Lane.launched]

@[simp] theorem Lane.takeBoundary_splicePending (k : DividerSet) (l : Lane) :
    (l.takeBoundary k).splicePending = l.splicePending := by
  unfold Lane.takeBoundary Lane.noteTick
  split <;> rfl

/-- Taking a boundary in RUNNING or WAITING: the note, the flag, and nothing else. -/
theorem Lane.takeBoundary_on {k : DividerSet} {l : Lane}
    (h : l.state = .running ∨ l.state = .waiting) :
    l.takeBoundary k =
      { l with
        boundaryTaken := true, ownDue := false, sinceBoundary := false
        holdoverSeen := l.holdoverSeen || decide (k = .holdover) } := by
  unfold Lane.takeBoundary Lane.noteTick
  by_cases hk : k = .holdover <;> simp [h, hk]

/-- Taking a boundary in any other state: the flag, and nothing else. -/
theorem Lane.takeBoundary_off {k : DividerSet} {l : Lane}
    (h1 : l.state ≠ .running) (h2 : l.state ≠ .waiting) :
    l.takeBoundary k =
      { l with boundaryTaken := true, ownDue := false, sinceBoundary := false } := by
  simp [Lane.takeBoundary, Lane.noteTick, h1, h2]

/-! ## The lane's own event, state by state -/

theorem ownActions_taken {n : LaneId} {s : State} (h : (s.lane n).boundaryTaken = true) :
    ownActions n s =
      (s.setLane n { s.lane n with ownDue := false, sinceBoundary := false }, []) := by
  simp [ownActions, h]

theorem ownActions_off {n : LaneId} {s : State} (h : (s.lane n).boundaryTaken = false)
    (hs : (s.lane n).state = .idle ∨ (s.lane n).state = .faulted) :
    ownActions n s =
      (s.setLane n
        { s.lane n with boundaryTaken := true, ownDue := false, sinceBoundary := false }, []) := by
  unfold ownActions
  dsimp only
  rcases hs with hs | hs <;>
    rw [Lane.takeBoundary_off (by simp [hs]) (by simp [hs])] <;> simp [h, hs, Lane.actsNext]

theorem ownActions_armed {n : LaneId} {s : State} (h : (s.lane n).boundaryTaken = false)
    (ha : (s.lane n).sinceBoundary = false) (hs : (s.lane n).state = .armed) :
    ownActions n s =
      armedBoundary n
        (s.setLane n
          { s.lane n with boundaryTaken := true, ownDue := false, sinceBoundary := false }) := by
  unfold ownActions
  dsimp only
  rw [Lane.takeBoundary_off (by simp [hs]) (by simp [hs])]
  simp [h, ha, hs, Lane.actsNext]

theorem ownActions_running {n : LaneId} {s : State} (h : (s.lane n).boundaryTaken = false)
    (hs : (s.lane n).state = .running) :
    ownActions n s =
      runningBoundary n (s.setLane n
        { s.lane n with
          boundaryTaken := true, ownDue := false, sinceBoundary := false
          holdoverSeen := (s.lane n).holdoverSeen || decide (s.tb.handedSet = .holdover) }) := by
  unfold ownActions
  dsimp only
  rw [Lane.takeBoundary_on (.inl hs)]
  simp [h, hs, Lane.actsNext]

theorem ownActions_waiting {n : LaneId} {s : State} (h : (s.lane n).boundaryTaken = false)
    (ha : (s.lane n).sinceBoundary = false) (hs : (s.lane n).state = .waiting) :
    ownActions n s =
      waitingBoundary n (s.setLane n
        { s.lane n with
          boundaryTaken := true, ownDue := false, sinceBoundary := false
          holdoverSeen := (s.lane n).holdoverSeen || decide (s.tb.handedSet = .holdover) }) := by
  unfold ownActions
  dsimp only
  rw [Lane.takeBoundary_on (.inr hs)]
  simp [h, ha, hs, Lane.actsNext]

/-- A lane that is to act at the boundary after takes the flag, in WAITING notes the tick, and leaves
no work (log 16). -/
theorem ownActions_actsNext {n : LaneId} {s : State} (h : (s.lane n).boundaryTaken = false)
    (ha : (s.lane n).actsNext = true) :
    ownActions n s = (s.setLane n ((s.lane n).takeBoundary s.tb.handedSet), []) := by
  simp [ownActions, h, ha]

/-- When a lane acts at the boundary after, in the statements' words. -/
theorem Lane.actsNext_iff {n : LaneId} {s : State} :
    (s.lane n).actsNext = true ↔ s.actsAfter n := by
  simp [Lane.actsNext, State.actsAfter]

end Sys2Proof.Machine
end

