-- ==== Sys2Proof/Laws/Memory.lean ====
section
/-! SUPPORT. Laws of the pattern memory: a byte written is read back, no other byte changes, and
every operation keeps the canonical form. -/

namespace Sys2Proof.Machine

/-! ## The cell list -/

theorem findCell_insertCell (k j : Nat) (v : Byte) (l : List Host.Cell) :
    findCell (insertCell k v l) j = if j = k then some v else findCell l j := by
  induction l with
  | nil => simp [insertCell, findCell, eq_comm]
  | cons c rest ih =>
    obtain ⟨a, b⟩ := c
    simp only [insertCell]
    split
    · simp [findCell, eq_comm]
    · split
      · next h =>
        subst h
        by_cases hj : j = a <;> simp [findCell, hj, eq_comm]
      · next h =>
        by_cases hj : j = k
        · subst hj
          simp [findCell, ih, h]
        · simp [findCell, ih, hj]

theorem findCell_none_of_risingFrom {lo j : Nat} {l : List Host.Cell} (h : risingFrom lo l = true)
    (hj : j < lo) : findCell l j = none := by
  induction l generalizing lo with
  | nil => rfl
  | cons c rest ih =>
    obtain ⟨a, b⟩ := c
    simp only [risingFrom, Bool.and_eq_true, decide_eq_true_eq] at h
    have hne : a ≠ j := by omega
    simp [findCell, hne, ih h.2 (by omega)]

theorem risingFrom_mono {lo hi : Nat} {l : List Host.Cell} (h : risingFrom hi l = true)
    (hle : lo ≤ hi) : risingFrom lo l = true := by
  cases l with
  | nil => rfl
  | cons c rest =>
    simp only [risingFrom, Bool.and_eq_true, decide_eq_true_eq] at h ⊢
    exact ⟨by omega, h.2⟩

theorem findCell_eraseCell {lo k j : Nat} {l : List Host.Cell} (h : risingFrom lo l = true) :
    findCell (eraseCell k l) j = if j = k then none else findCell l j := by
  induction l generalizing lo with
  | nil => simp [eraseCell, findCell]
  | cons c rest ih =>
    obtain ⟨a, b⟩ := c
    simp only [risingFrom, Bool.and_eq_true, decide_eq_true_eq] at h
    simp only [eraseCell]
    split
    · next hak =>
      subst hak
      by_cases hj : j = a
      · subst hj
        simp [findCell_none_of_risingFrom h.2]
      · simp [findCell, hj, Ne.symm hj]
    · next hak =>
      by_cases hj : j = k
      · subst hj
        simp [findCell, hak, ih h.2]
      · simp [findCell, ih h.2, hj]

theorem insertCell_rising {lo k : Nat} {v : Byte} {l : List Host.Cell}
    (h : risingFrom lo l = true) (hk : lo ≤ k) : risingFrom lo (insertCell k v l) = true := by
  induction l generalizing lo with
  | nil => simp [insertCell, risingFrom, hk]
  | cons c rest ih =>
    obtain ⟨a, b⟩ := c
    simp only [risingFrom, Bool.and_eq_true, decide_eq_true_eq] at h
    simp only [insertCell]
    split
    · next hlt =>
      simp only [risingFrom, Bool.and_eq_true, decide_eq_true_eq]
      exact ⟨hk, hlt, h.2⟩
    · split
      · next heq =>
        subst heq
        simp only [risingFrom, Bool.and_eq_true, decide_eq_true_eq]
        exact ⟨hk, h.2⟩
      · simp only [risingFrom, Bool.and_eq_true, decide_eq_true_eq]
        exact ⟨h.1, ih h.2 (by omega)⟩

theorem eraseCell_rising {lo k : Nat} {l : List Host.Cell} (h : risingFrom lo l = true) :
    risingFrom lo (eraseCell k l) = true := by
  induction l generalizing lo with
  | nil => rfl
  | cons c rest ih =>
    obtain ⟨a, b⟩ := c
    simp only [risingFrom, Bool.and_eq_true, decide_eq_true_eq] at h
    simp only [eraseCell]
    split
    · exact risingFrom_mono h.2 (by omega)
    · simp only [risingFrom, Bool.and_eq_true, decide_eq_true_eq]
      exact ⟨h.1, ih h.2⟩

theorem mem_insertCell {k : Nat} {v : Byte} {c : Host.Cell} {l : List Host.Cell}
    (h : c ∈ insertCell k v l) : c = (k, v) ∨ c ∈ l := by
  induction l with
  | nil => simpa [insertCell] using h
  | cons d rest ih =>
    obtain ⟨a, b⟩ := d
    simp only [insertCell] at h
    split at h
    · simpa using h
    · split at h
      · rcases List.mem_cons.mp h with h | h
        · exact .inl h
        · exact .inr (List.mem_cons_of_mem _ h)
      · rcases List.mem_cons.mp h with h | h
        · exact .inr (h ▸ List.mem_cons_self)
        · rcases ih h with h | h
          · exact .inl h
          · exact .inr (List.mem_cons_of_mem _ h)

theorem mem_eraseCell {lo k : Nat} {c : Host.Cell} {l : List Host.Cell}
    (hr : risingFrom lo l = true) (h : c ∈ eraseCell k l) : c ∈ l ∧ c.1 ≠ k := by
  induction l generalizing lo with
  | nil => simp [eraseCell] at h
  | cons d rest ih =>
    obtain ⟨a, b⟩ := d
    simp only [risingFrom, Bool.and_eq_true, decide_eq_true_eq] at hr
    simp only [eraseCell] at h
    split at h
    · next hak =>
      subst hak
      refine ⟨List.mem_cons_of_mem _ h, ?_⟩
      rintro rfl
      have hn := findCell_none_of_risingFrom hr.2 (Nat.lt_succ_self c.1)
      clear ih hr
      induction rest with
      | nil => simp at h
      | cons e r ihr =>
        obtain ⟨a', b'⟩ := e
        simp only [findCell] at hn
        split at hn
        · simp at hn
        · next hne =>
          rcases List.mem_cons.mp h with h | h
          · exact hne (by rw [h])
          · exact ihr h hn
    · next hak =>
      rcases List.mem_cons.mp h with h | h
      · subst h
        exact ⟨List.mem_cons_self, hak⟩
      · exact ⟨List.mem_cons_of_mem _ (ih hr.2 h).1, (ih hr.2 h).2⟩

/-! ## The canonical form -/

/-- The canonical form in words (log 5). -/
theorem Pmem.wf_iff (m : Pmem) :
    m.wf = true ↔ risingFrom 0 m.cells = true ∧ m.cleared ≤ 4096 ∧
      ∀ c ∈ m.cells, c.1 < 16384 ∧ (4 * m.cleared ≤ c.1 ∨ c.2 ≠ 0) := by
  simp [Pmem.wf, and_assoc]

theorem Pmem.writeByte_cleared (m : Pmem) (k : Nat) (v : Byte) :
    (m.writeByte k v).cleared = m.cleared := by
  unfold Pmem.writeByte
  split <;> rfl

theorem Pmem.writeByte_boot (m : Pmem) (k : Nat) (v : Byte) :
    (m.writeByte k v).boot = m.boot := by
  unfold Pmem.writeByte
  split <;> rfl

/-- A byte stored within the memory keeps the canonical form. -/
theorem Pmem.writeByte_wf {m : Pmem} (h : m.wf = true) {k : Nat} (hk : k < 16384) (v : Byte) :
    (m.writeByte k v).wf = true := by
  rw [Pmem.wf_iff] at h ⊢
  obtain ⟨hr, hc, hall⟩ := h
  unfold Pmem.writeByte
  split
  · exact ⟨eraseCell_rising hr, hc, fun c hmem => hall c (mem_eraseCell hr hmem).1⟩
  · next hcond =>
    refine ⟨insertCell_rising hr (Nat.zero_le k), hc, fun c hmem => ?_⟩
    rcases mem_insertCell hmem with rfl | hmem
    · refine ⟨hk, ?_⟩
      by_cases hlt : k < 4 * m.cleared
      · exact .inr fun hz => hcond ⟨hlt, hz⟩
      · exact .inl (Nat.le_of_not_lt hlt)
    · exact hall c hmem

/-- A byte read after a byte is stored: the stored one at its address, the old one elsewhere. -/
theorem Pmem.readByte_writeByte {m : Pmem} (h : m.wf = true) (k j : Nat) (v : Byte) :
    (m.writeByte k v).readByte j = if j = k then v else m.readByte j := by
  have hr := ((Pmem.wf_iff m).mp h).1
  unfold Pmem.writeByte
  split
  · next hcond =>
    obtain ⟨hlt, rfl⟩ := hcond
    simp only [Pmem.readByte, findCell_eraseCell hr]
    by_cases hj : j = k
    · subst hj
      simp [Pmem.unlisted, hlt]
    · simp only [hj, if_false]
      rfl
  · simp only [Pmem.readByte, findCell_insertCell]
    by_cases hj : j = k
    · simp [hj]
    · simp only [hj, if_false]
      rfl

/-- A word stored keeps the canonical form. -/
theorem Pmem.write_wf {m : Pmem} (h : m.wf = true) (a : Addr) (w : Word) :
    (m.write a w).wf = true := by
  have ha := a.isLt
  unfold Pmem.write
  exact Pmem.writeByte_wf (Pmem.writeByte_wf (Pmem.writeByte_wf (Pmem.writeByte_wf h (by omega) _)
    (by omega) _) (by omega) _) (by omega) _

/-- Each byte after a word is stored. -/
theorem Pmem.readByte_write {m : Pmem} (h : m.wf = true) (a : Addr) (w : Word) (j : Nat) :
    (m.write a w).readByte j =
      if j = 4 * a.toNat + 3 then w.extractLsb' 24 8
      else if j = 4 * a.toNat + 2 then w.extractLsb' 16 8
      else if j = 4 * a.toNat + 1 then w.extractLsb' 8 8
      else if j = 4 * a.toNat then w.extractLsb' 0 8
      else m.readByte j := by
  have ha := a.isLt
  have h0 := Pmem.writeByte_wf h (k := 4 * a.toNat) (by omega) (w.extractLsb' 0 8)
  have h1 := Pmem.writeByte_wf h0 (k := 4 * a.toNat + 1) (by omega) (w.extractLsb' 8 8)
  have h2 := Pmem.writeByte_wf h1 (k := 4 * a.toNat + 2) (by omega) (w.extractLsb' 16 8)
  unfold Pmem.write
  rw [Pmem.readByte_writeByte h2, Pmem.readByte_writeByte h1, Pmem.readByte_writeByte h0,
    Pmem.readByte_writeByte h]

theorem word_of_bytes (w : Word) :
    w.extractLsb' 24 8 ++ w.extractLsb' 16 8 ++ w.extractLsb' 8 8 ++ w.extractLsb' 0 8 = w := by
  apply BitVec.eq_of_getLsbD_eq
  intro i hi
  simp only [BitVec.getLsbD_append, BitVec.getLsbD_extractLsb']
  interval_cases i <;> simp

/-- An entry read after a word is stored: the word at its entry, the old one elsewhere. -/
theorem Pmem.read_write {m : Pmem} (h : m.wf = true) (a b : Addr) (w : Word) :
    (m.write a w).read b = if b = a then w else m.read b := by
  have ha := a.isLt
  have hb := b.isLt
  by_cases hab : b = a
  · subst hab
    simp only [Pmem.read, Pmem.readByte_write h]
    simpa using word_of_bytes w
  · have hne : b.toNat ≠ a.toNat := fun he => hab (BitVec.eq_of_toNat_eq he)
    have e : ∀ i k : Nat, i < 4 → k < 4 → 4 * b.toNat + i ≠ 4 * a.toNat + k := by
      intro i k hi hk
      omega
    have e0 : ∀ k : Nat, k < 4 → 4 * b.toNat ≠ 4 * a.toNat + k := fun k hk => e 0 k (by omega) hk
    have e1 : ∀ i : Nat, i < 4 → 4 * b.toNat + i ≠ 4 * a.toNat := fun i hi => e i 0 hi (by omega)
    simp [Pmem.read, Pmem.readByte_write h, hab, e, e0, e1, hne]

/-- Clearing the next entry keeps the canonical form while entries remain. -/
theorem Pmem.clearNext_wf {m : Pmem} (h : m.wf = true) (hlt : m.cleared < 4096) :
    m.clearNext.wf = true := by
  rw [Pmem.wf_iff] at h ⊢
  obtain ⟨hr, _, hall⟩ := h
  have r0 := eraseCell_rising (k := 4 * m.cleared) hr
  have r1 := eraseCell_rising (k := 4 * m.cleared + 1) r0
  have r2 := eraseCell_rising (k := 4 * m.cleared + 2) r1
  refine ⟨eraseCell_rising r2, hlt, fun c hmem => ?_⟩
  obtain ⟨hmem, n3⟩ := mem_eraseCell r2 hmem
  obtain ⟨hmem, n2⟩ := mem_eraseCell r1 hmem
  obtain ⟨hmem, n1⟩ := mem_eraseCell r0 hmem
  obtain ⟨hmem, n0⟩ := mem_eraseCell hr hmem
  obtain ⟨hb, ho⟩ := hall c hmem
  refine ⟨hb, ?_⟩
  rcases ho with ho | ho
  · left
    simp only [Pmem.clearNext]
    omega
  · exact .inr ho

/-- Each byte after the next entry is cleared. -/
theorem Pmem.readByte_clearNext {m : Pmem} (h : m.wf = true) (j : Nat) :
    m.clearNext.readByte j =
      if 4 * m.cleared ≤ j ∧ j < 4 * m.cleared + 4 then 0 else m.readByte j := by
  have hr := ((Pmem.wf_iff m).mp h).1
  have r0 := eraseCell_rising (k := 4 * m.cleared) hr
  have r1 := eraseCell_rising (k := 4 * m.cleared + 1) r0
  have r2 := eraseCell_rising (k := 4 * m.cleared + 2) r1
  simp only [Pmem.readByte, Pmem.clearNext, findCell_eraseCell r2, findCell_eraseCell r1,
    findCell_eraseCell r0, findCell_eraseCell hr]
  by_cases hj : 4 * m.cleared ≤ j ∧ j < 4 * m.cleared + 4
  · have hsome : j = 4 * m.cleared + 3 ∨ j = 4 * m.cleared + 2 ∨ j = 4 * m.cleared + 1
        ∨ j = 4 * m.cleared := by omega
    have hlt : j < 4 * (m.cleared + 1) := by omega
    rcases hsome with rfl | rfl | rfl | rfl <;> simp [Pmem.unlisted] <;> omega
  · have n0 : j ≠ 4 * m.cleared := by omega
    have n1 : j ≠ 4 * m.cleared + 1 := by omega
    have n2 : j ≠ 4 * m.cleared + 2 := by omega
    have n3 : j ≠ 4 * m.cleared + 3 := by omega
    have hiff : j < 4 * (m.cleared + 1) ↔ j < 4 * m.cleared := by omega
    simp [n0, n1, n2, n3, hj, Pmem.unlisted, hiff]

/-- What a lane fetches after a host write (R19): the new word where it has begun no step at this
boundary, and what it fetched before where it has. -/
theorem fetchWord_writePmem {s : State} (h : s.pmem.wf = true) (hi : s.init = none) (w : Word)
    (n : LaneId) (a : Addr) :
    (writePmem w s).fetchWord n a =
      if (s.lane n).sight = none ∧ a = s.ptr.addr then w else s.fetchWord n a := by
  have hl : (writePmem w s).lane n = (s.lane n).keepWord s.ptr.addr (s.pmem.read s.ptr.addr) := by
    simp [writePmem, State.initBusy, hi, State.lane]
  have hm : (writePmem w s).pmem = s.pmem.write s.ptr.addr w := by
    simp [writePmem, State.initBusy, hi]
  unfold State.fetchWord
  rw [hl, hm]
  cases hs : (s.lane n).sight with
  | none => simp [Lane.keepWord, hs, Pmem.read_write h]
  | some kept =>
    by_cases ha : s.ptr.addr = a
    · subst ha
      cases hk : keptWord kept s.ptr.addr <;> simp [Lane.keepWord, hs, hk, keptWord]
    · have ha' : ¬ a = s.ptr.addr := fun h => ha h.symm
      cases hk : keptWord kept s.ptr.addr <;>
        simp [Lane.keepWord, hs, hk, keptWord, ha, ha', Pmem.read_write h]

/-- The memory a power-on brings up has the canonical form. -/
theorem Pmem.powerUp_wf (m : Pmem) : m.powerUp.wf = true := by
  simp [Pmem.powerUp, Pmem.wf, risingFrom]

/-- The memory at reset has the canonical form. -/
theorem reset_pmem_wf : State.reset.pmem.wf = true := by decide

end Sys2Proof.Machine
end

