-- ==== Sys2Proof/WellFormed.lean ====
section
/-! DEFINITION. Which commands are well formed: an access row names an index of the kind the row is
for. The part itself judges an access by its index alone, so an ill-formed command still has a
meaning (log 13). -/

namespace Sys2Proof

/-- A command whose index or op code is one its row of the table is for. -/
def WellFormed : Instr → Bool
  | .badIndex _ i _ => (regAt i).isNone
  | .readOnlyWrite i _ =>
    match regAt i with
    | some r => decide (r.access = .ro)
    | none => false
  | .registerWrite i w =>
    match regAt i with
    | some .globalCmd => !opDefined (opCode w)
    | some r => r.plain
    | none => false
  | .laneCmdBadCommand op _ => !opDefined op
  | .por | .initClear | .rstnAssert | .rstnReset | .frameStart | .shortFrame _
  | .pmemDataWrite _ | .pmemDataRead | .tbTrim _ | .intStatus _ | .intEnable _
  | .laneCfg _ _ | .groupMembers _ _ | .carCtrl _ _ | .carWidth _ _ | .inCfg _ _
  | .capqStatus _ | .capqPop _ | .evqPop _ | .softReset | .tbUseInternal | .tbUseExternal
  | .tbRearm | .capqFlush | .submit _ | .stopAtEnd _ | .splice _ | .abort _ | .clearFault _
  | .tickBoundary | .laneBoundary _ | .holdEnd _ | .timeoutExpiry _ | .waitSatisfied _
  | .launchStart _ | .spliceLanding _ | .highPhaseEnd _ | .periodEnd _ | .refinEdge | .lock
  | .lossDetected | .inPinChange _ _ | .sample _ | .frameEnd => true

end Sys2Proof
end

