-- ==== Sys2Proof/Tests/Slice0.lean ====
section
/-! SUPPORT. Small tests against the manual's own words and examples, the smoke test of WellFormed,
and a witness that meets the hypotheses of every statement that has any. -/

namespace Sys2Proof.Tests

open Sys2Proof Sys2Proof.Machine

/-! ## Small states -/

/-- The state an outcome answers, if it is a next state. -/
def answer (o : Host.Outcome State Fault Refusal) : Option State :=
  match o with
  | .next t => some t
  | .fault _ | .refused _ => none

/-- The part outside INIT, its memory cleared, at its reset values otherwise. -/
def quiet : State := { State.reset with init := none, pmem := ⟨[], 4096, 0⟩ }

/-- The same with RSTN held low. -/
def heldLow : State := { quiet with port := { quiet.port with rstnLow := true } }

/-- A word stored in an entry. -/
def withEntry (a : Addr) (w : Word) (s : State) : State := { s with pmem := s.pmem.write a w }

/-- One lane changed. -/
def onLane (n : LaneId) (f : Lane → Lane) (s : State) : State := s.setLane n (f (s.lane n))

/-- The timebase changed. -/
def onTb (f : Timebase → Timebase) (s : State) : State := { s with tb := f s.tb }

/-- A launch of 2 passes from entry 004h with tag 7 and rest level HIGH. -/
def launch7 : Launch := ⟨⟨4, .immediate, 2, .high, 7⟩, false, 0⟩

/-- A lane at launch7 in a state, its step at 004h. -/
def atLaunch (st : LaneState) (l : Lane) : Lane :=
  { l with state := st, stepAddr := 4, queue := { l.queue with active := some launch7 } }

/-- An IMMEDIATE launch of entry 008h behind the one that runs. -/
def next9 : Descriptor := ⟨8, .immediate, 1, .low, 9⟩

def behind (l : Lane) : Lane := { l with queue := { l.queue with pending := [next9] } }

/-- A group with members and an arrived set. -/
def onGroup (g : GroupId) (members arrived : LaneSet) (s : State) : State :=
  s.setGroup g ⟨members, arrived, 0⟩

/-- An Event Queue of 32 MARK records. -/
def fullEvq (s : State) : State :=
  { s with evq := { s.evq with placed := List.replicate 32 ⟨0, 0, .mark .l0 1 2⟩ } }

/-- A capture record of a rising edge on IN2. -/
def edge2 : CaptureRecord := ⟨.in2, .rise, 40, 5, false, 1, none⟩

/-- Lane 0 with one AWAIT_POST slot behind a full Event Queue. -/
def deferred : State :=
  fullEvq (onLane .l0
    (fun l => { l with queue := { l.queue with
      awaiting := [⟨next9, ⟨3, 0, .aborted .l0 9 0 .flushed 8⟩⟩] } })
    { quiet with evq := ⟨[], [.lane .l0], 2⟩ })

/-- A TIMEBASE record pending behind a full Event Queue. -/
def tbDeferred : State :=
  fullEvq (onTb (fun t => { t with record := some ⟨.holdover, 1, 255, 6⟩ })
    { quiet with evq := ⟨[], [.timebase], 0⟩ })

/-- A field of the state a command answers. -/
def after {α : Type} (c : Instr) (s : State) (f : State → α) : Option α := (answer (exec c s)).map f

/-! ## WellFormed and the decoders -/

theorem test_wellFormed_refuses_mapped_badIndex : WellFormed (.badIndex .read 0x00 0) = false := by
  decide
theorem test_wellFormed_refuses_rw_readOnlyWrite : WellFormed (.readOnlyWrite 0x0D 0) = false := by
  decide
theorem test_wellFormed_refuses_own_row_registerWrite :
    WellFormed (.registerWrite 0x0D 0) = false := by decide
theorem test_wellFormed_refuses_defined_globalOp : WellFormed (.registerWrite 0x02 5) = false := by
  decide
theorem test_wellFormed_refuses_defined_laneOp : WellFormed (.laneCmdBadCommand 5 6) = false := by
  decide
theorem test_wellFormed_admits_each_kind :
    WellFormed (.badIndex .write 0x0F 0) = true ∧ WellFormed (.readOnlyWrite 0x43 0) = true ∧
      WellFormed (.registerWrite 0x10 0) = true ∧ WellFormed (.registerWrite 0x02 6) = true ∧
      WellFormed (.laneCmdBadCommand 0 7) = true := by decide

/-- The example words of section 10.7 of the manual. -/
theorem test_decodeStep_examples :
    decodeStep 0x14000258 = some (.hold .high 600) ∧
      decodeStep 0x21400005 = some (.wait (.line .in1) .high false 5) ∧
      decodeStep 0x30000003 = some (.loop 3) ∧ decodeStep 0x50000180 = some (.sub 0x180) ∧
      decodeStep 0x90003569 = some (.tune .a 0x35 0x69) := by decide
/-- Widths, durations and counts of 0 and source and kind codes without a meaning are illegal. -/
theorem test_decodeStep_illegal :
    decodeStep 0x10000000 = none ∧ decodeStep 0x26000000 = none ∧ decodeStep 0x30000000 = none ∧
      decodeStep 0x90000001 = none ∧ decodeStep 0xA0000000 = none := by decide

/-- The example words of R179 and R180: a DONE record of lane 1 with tag 11, and the record of
section 8.5. -/
theorem test_record_words_examples :
    (EventRecord.mk 0 0 (.done .l1 11 ⟨1, false, false, false, 0⟩)).word0 = 0x1103000B ∧
      (let s : State := { quiet with capq := ⟨[⟨.in2, .rise, 500, 10, false, 0, none⟩], 0, 1⟩ };
        (readReg .capqHead0 s, readReg .capqHead1 s, readReg .capqHead2 s) =
          (0x00000A21, 0x000001F4, 0)) := by decide

/-- The table gives no row any bits. -/
theorem test_decodeTableWord_reads_nothing : decodeTableWord 32 0x11 = none := by decide

/-! ## Commands, at most two tests each -/

theorem test_por_begins_init :
    after .por quiet (fun t => (t.init, t.pmem.cleared)) = some (some 0, 0) := by decide
theorem test_initClear_ends_init_at_the_last_entry :
    after .initClear { State.reset with init := some 224, pmem := ⟨[], 4095, 0⟩ }
      (fun t => (t.init, t.pmem.read 0xFFF)) = some (none, 0) := by decide
theorem test_rstnAssert_releases_irqn :
    after .rstnAssert { quiet with ints := ⟨true, false, false, 31⟩ } State.irqnLow =
      some false := by decide
theorem test_rstnReset_ends_init :
    after .rstnReset { State.reset with init := some 224, pmem := ⟨[], 3, 0⟩ }
      (fun t => (t.init, t.pmem.cleared)) = some (none, 3) := by decide
/-- HOST_STATUS reads 81h after POR: INIT_BUSY and the fixed 01b (R174, R175). -/
theorem test_frameStart_takes_the_status_byte :
    after .frameStart State.reset (fun t => t.port.frame.map fun f => f.status) =
      some (some 0x81) := by decide
/-- A read burst from 10h: its first word passes over PMEM_PTR, which no row reads, and the window
keeps the index; a write in it begins a new frame, whose status byte is taken anew. -/
theorem test_bursts_follow_the_index :
    (after .frameStart quiet fun t =>
      (((t.wordAt .read 0x10).wordAt .read 0x11).wordAt .read 0x11).port.frame) =
        some (some ⟨0x01, some .read, some 0x11⟩) ∧
      (after .frameStart State.reset fun t =>
        (({ t with init := none }.wordAt .read 0x10).wordAt .write 0x14).port.frame) =
        some (some ⟨0x01, some .write, some 0x15⟩) := by decide
theorem test_frameEnd_ends_the_frame :
    after .frameEnd
      { quiet with port := { quiet.port with csnLow := true, frame := some ⟨1, none, none⟩ } }
      (fun t => (t.port.frame, t.port.csnLow)) = some (none, false) := by decide
theorem test_shortFrame_reports_its_index :
    after (.shortFrame (.dataWord .write 0x14)) quiet (fun t => readReg .portErr t) =
      some 0x1404 := by decide
theorem test_badIndex_reads_zero :
    after (.badIndex .read 0x7F 0) quiet (fun t => (t.port.lastRead, readReg .portErr t)) =
      some (some 0, 0x7F01) := by decide
theorem test_badIndex_keeps_the_first_error :
    after (.badIndex .write 0x12 0)
      { quiet with
        ints := ⟨false, false, true, 0⟩, port := { quiet.port with portErr := ⟨.readOnly, 0⟩ } }
      (fun t => readReg .portErr t) = some 2 := by decide
theorem test_readOnlyWrite_is_ignored :
    after (.readOnlyWrite 0x0E 5) quiet (fun t => (t.tb.time, readReg .portErr t)) =
      some (0, 0x0E02) := by decide
theorem test_registerWrite_stores_the_pointer :
    after (.registerWrite 0x10 0x80000FFF) quiet (fun t => readReg .pmemPtr t) =
      some 0x80000FFF := by decide
theorem test_registerWrite_undefined_global_op :
    after (.registerWrite 0x02 6) quiet (fun t => readReg .cmdResult t) = some 0x20D := by decide
theorem test_pmemDataWrite_wraps_the_pointer :
    after (.pmemDataWrite 0x14000258) { quiet with ptr := ⟨0xFFF, true⟩ }
      (fun t => (t.pmem.read 0xFFF, t.ptr.addr)) = some (0x14000258, 0) := by decide
/-- R19: lane 0, which has begun a step at this boundary, still fetches the word as it stood, and
lane 1, which has begun none, the new one. -/
theorem test_pmemDataWrite_comes_behind_a_begun_step :
    after (.pmemDataWrite 0x14000258)
      (onLane .l0 (fun l => { l with sight := some [] })
        (withEntry 3 0x50000180 { quiet with ptr := ⟨3, false⟩ }))
      (fun t => (t.fetchWord .l0 3, t.fetchWord .l1 3)) = some (0x50000180, 0x14000258) := by decide
theorem test_pmemDataRead_shifts_out_the_entry :
    after .pmemDataRead (withEntry 3 0x50000180 { quiet with ptr := ⟨3, false⟩ })
      (fun t => (t.port.lastRead, t.ptr.addr)) = some (some 0x50000180, 3) := by decide
theorem test_tbTrim_keeps_five_bits :
    after (.tbTrim 0x3F) quiet (fun t => readReg .tbTrim t) = some 0x1F := by decide
theorem test_intStatus_clears_by_ones :
    after (.intStatus 0x08) { quiet with ints := ⟨true, true, true, 0⟩ }
      (fun t => readReg .intStatus t) = some 0x12 := by decide
theorem test_intEnable_stores :
    after (.intEnable 0xFF) quiet (fun t => readReg .intEnable t) = some 0x1F := by decide
theorem test_laneCfg_stores_four_settings :
    after (.laneCfg .l5 0x31) quiet (fun t => (readReg (.laneCfg .l5) t, readReg .cmdResult t)) =
      some (0x31, 0x5400) := by decide
theorem test_laneCfg_refuses_code_3 :
    after (.laneCfg .l0 0x0C) quiet (fun t => readReg .cmdResult t) = some 0x4004 := by decide
theorem test_groupMembers_refused_while_held :
    after (.groupMembers .g1 0x3F) (onGroup .g1 3 1 quiet)
      (fun t => (readReg (.groupMembers .g1) t, readReg .cmdResult t)) = some (3, 0x1909) := by
  decide
theorem test_carCtrl_enable_starts_high :
    after (.carCtrl .a 0x31) quiet (fun t => readReg (.carCtrl .a) t) = some 0x131 := by decide
theorem test_carWidth_shows_the_pending_pair :
    after (.carWidth .b 0x3569) quiet (fun t => readReg (.carWidth .b) t) = some 0x01013569 := by
  decide
theorem test_inCfg_restarts_the_run :
    after (.inCfg .in3 0x5D37) (quiet.setInput .in3 { quiet.input .in3 with runCount := 1 })
      (fun t => (readReg (.inCfg .in3) t, (t.input .in3).runCount)) = some (0x5D37, 0) := by decide
theorem test_capqStatus_writes_the_threshold :
    after (.capqStatus 0xFFFF1FFF) quiet (fun t => readReg .capqStatus t) = some 0x1F00 := by decide
theorem test_capqPop_empty :
    after (.capqPop 1) quiet (fun t => readReg .cmdResult t) = some 0x2C0B := by decide
theorem test_evqPop_places_the_deferred_record :
    after (.evqPop 0) deferred
      (fun t => (t.evq.placed.length, (t.evq.placed.getLast?).map fun r => r.droppedBefore,
        t.evq.deferral, (t.lane .l0).queue.awaiting)) = some (32, some 2, [], []) := by decide
theorem test_softReset_reports_index_2 :
    after .softReset (onLane .l3 (atLaunch .running) quiet)
      (fun t => (readReg .cmdResult t, (t.lane .l3).state)) = some (0x200, .idle) := by decide
theorem test_softReset_keeps_the_due_event :
    after .softReset (onLane .l3 (fun l => { l with ownDue := true }) quiet)
      (fun t => ((t.lane .l3).ownDue, (t.lane .l2).ownDue)) = some (true, false) := by decide
theorem test_tbUseInternal_requests_the_switch :
    after .tbUseInternal (onTb (fun t => { t with state := .holdover }) quiet)
      (fun t => (t.tb.state, t.tb.switchReq)) = some (.holdover, true) := by decide
theorem test_tbUseExternal_qualifies :
    after .tbUseExternal quiet (fun t => readReg .tbStatus t) = some 1 := by decide
theorem test_tbRearm_refused_outside_holdover :
    after .tbRearm quiet (fun t => readReg .cmdResult t) = some 0x20A := by decide
theorem test_capqFlush_empties :
    after .capqFlush { quiet with capq := ⟨[edge2], 9, 4⟩ } (fun t => readReg .capqStatus t) =
      some 0x400 := by decide
/-- Section 4.9's staged words: entry 004h, tag 7, IMMEDIATE. -/
theorem test_submit_arms_an_idle_lane :
    after (.submit 0) { quiet with staging := ⟨0x07002004, 0, 0⟩ }
      (fun t => ((t.lane .l0).state, (t.lane .l0).stepAddr, (t.lane .l0).activeTag)) =
      some (.armed, 4, 7) := by decide
theorem test_submit_refuses_lane_6 :
    after (.submit 6) quiet (fun t => readReg .cmdResult t) = some 0x304 := by decide
theorem test_stopAtEnd_of_an_armed_lane_retires :
    after (.stopAtEnd 1) (onLane .l1 (atLaunch .armed) quiet)
      (fun t => ((t.lane .l1).state, readReg .evqHead2 t, t.pinLevel .l1)) =
      some (.idle, 0x10000, .high) := by decide
theorem test_splice_needs_a_pending_launch :
    after (.splice 2) (onLane .l2 (atLaunch .running) quiet) (fun t => readReg .cmdResult t) =
      some 0x306 := by decide
theorem test_abort_posts_host_abort_and_flushed :
    after (.abort 0) (onLane .l0 (fun l => behind (atLaunch .running l)) quiet)
      (fun t => t.evq.placed.map fun r => r.word2) = some [0x00040000, 0x10080000] := by decide
theorem test_clearFault_of_a_faulted_lane :
    after (.clearFault 4) (onLane .l4 (fun l => { l with state := .faulted, cause := some .runaway })
      quiet) (fun t => (readReg (.laneStatus .l4) t, readReg .cmdResult t)) = some (0, 0x300) := by
  decide
theorem test_tickBoundary_advances_time :
    after .tickBoundary (onTb (fun t => { t with time := 0xFFFFFFFF }) quiet)
      (fun t => (t.tb.time, (t.lane .l0).ownDue)) = some (0, true) := by decide
theorem test_laneBoundary_counts_a_hold_down :
    after (.laneBoundary .l0)
      (onLane .l0 (fun l => { atLaunch .running l with remaining := 100, level := some .low }) quiet)
      (fun t => (t.lane .l0).remaining) = some 99 := by decide
/-- A lane at the last tick of a HOLD, with a HOLD HIGH of 600 at 005h. -/
def endOfHold : State :=
  withEntry 5 0x14000258
    (onLane .l0 (fun l => { atLaunch .running l with remaining := 1, level := some .low }) quiet)
theorem test_holdEnd_begins_the_next_hold :
    after (.holdEnd .l0) endOfHold
      (fun t => ((t.lane .l0).remaining, (t.lane .l0).stepAddr, t.pinLevel .l0)) =
      some (600, 5, .high) := by decide
/-- A lane at the last tick of a WAIT on IN1, the HOLD of 600 behind it. -/
def lastTick (strict : Bool) : State :=
  withEntry 5 0x14000258
    (onLane .l0
      (fun l => { atLaunch .waiting l with
        remaining := 1, level := some .low, waitSource := some (.line .in1), waitStrict := strict })
      quiet)
theorem test_timeoutExpiry_posts_and_goes_on :
    after (.timeoutExpiry .l0) (lastTick false)
      (fun t => ((t.lane .l0).remaining, t.evq.placed.map fun r => (r.word0, r.word2))) =
      some (600, [(0x40030007, 0x00010004)]) := by decide
theorem test_timeoutExpiry_strict_faults :
    after (.timeoutExpiry .l0) (lastTick true)
      (fun t => ((t.lane .l0).cause, t.evq.placed.map fun r => r.word2)) =
      some (some .waitTimeout, [0xC0040000]) := by decide
/-- A lane whose WAIT is satisfied, the HOLD of 600 behind it. -/
def satisfied : State := onLane .l0 (fun l => { l with waitSatisfied := true }) (lastTick true)
theorem test_waitSatisfied_goes_on :
    after (.waitSatisfied .l0) satisfied
      (fun t => ((t.lane .l0).remaining, (t.lane .l0).waitSource)) = some (600, none) := by decide
/-- An ARMED lane whose start is met, its entry a HOLD of 600. -/
def dueStart : State :=
  withEntry 4 0x14000258
    (onLane .l0
      (fun l => { atLaunch .armed l with
        queue := { l.queue with active := some { launch7 with startMet := true } } }) quiet)
theorem test_launchStart_runs_the_entry :
    after (.launchStart .l0) dueStart
      (fun t => ((t.lane .l0).state, (t.lane .l0).remaining)) = some (.running, 600) := by decide
/-- Lane 0 reached by a command since the boundary handed on. -/
def reached (s : State) : State :=
  onLane .l0 (fun l => { l with ownDue := true, sinceBoundary := true }) s
/-- A SUBMIT taken behind a boundary starts its launch at the boundary after it (R79): the own event
still to come does not. -/
theorem test_submit_behind_a_boundary :
    after (.submit 0)
      (onLane .l0 (fun l => { l with ownDue := true }) { quiet with staging := ⟨0x07002004, 0, 0⟩ })
      (fun t => ((t.lane .l0).state, (t.lane .l0).sinceBoundary)) = some (.armed, true) := by decide
theorem test_laneBoundary_leaves_a_later_start :
    after (.laneBoundary .l0) (reached dueStart)
      (fun t => ((t.lane .l0).state, (t.lane .l0).boundaryTaken, (t.lane .l0).sinceBoundary)) =
      some (.armed, true, false) := by decide
/-- An AT_TIME launch whose start time is TIME, its entry a HOLD of 600. -/
def dueTime : State :=
  withEntry 4 0x14000258
    (onLane .l0
      (fun l => { atLaunch .armed l with
        queue := { l.queue with
          active := some { launch7 with desc := { launch7.desc with start := .atTime 0 } } } }) quiet)
/-- A WAITING lane with a splice pending, the launch behind it at a HOLD of 600. -/
def landing (st : LaneState) : State :=
  withEntry 8 0x14000258
    (onLane .l0
      (fun l => { behind (atLaunch st l) with
        remaining := 1, level := some .low, splicePending := true }) quiet)
theorem test_spliceLanding_retires_spliced :
    after (.spliceLanding .l0) (landing .waiting)
      (fun t => ((t.lane .l0).activeTag, (t.lane .l0).remaining,
        t.evq.placed.map fun r => r.word2)) = some (9, 600, [0x20000]) := by decide
/-- An enabled carrier in a phase. -/
def runningCarrier (p : Level) : State :=
  quiet.setCarrier .a ⟨true, 0, ⟨3, 2⟩, some ⟨5, 6⟩, p, 1, 0⟩
theorem test_highPhaseEnd_falls :
    after (.highPhaseEnd .a) (runningCarrier .high) (fun t => (t.carrier .a).level) = some .low := by
  decide
theorem test_periodEnd_applies_the_pending_pair :
    after (.periodEnd .a) (runningCarrier .low) (fun t => readReg (.carWidth .a) t) =
      some 0x05060000 := by decide
/-- A timebase in a state, from IOSC. -/
def inState (st : TbState) (qual : Nat) : State :=
  onTb (fun t => { t with state := st, qual := qual, window := 7 }) quiet
theorem test_refinEdge_counts :
    after .refinEdge (inState .qualifying 5) (fun t => (t.tb.qual, t.tb.window)) = some (6, 0) := by
  decide
theorem test_lock_posts_a_timebase_record :
    after .lock (inState .qualifying 4095)
      (fun t => (t.tb.state, t.evq.placed.map fun r => (r.word0, r.word2))) =
      some (.external, [(0x68030000, 0x00010002)]) := by decide
theorem test_lossDetected_faults_by_policy :
    after .lossDetected
      (onLane .l0 (fun l => { atLaunch .running l with cfg := ⟨.low, .low, .fault, false⟩ })
        (inState .external 4096))
      (fun t => (t.tb.state, (t.lane .l0).cause)) = some (.holdover, some .refLost) := by decide
theorem test_inPinChange_is_not_yet_accepted :
    after (.inPinChange .in0 .high) quiet (fun t => readReg .inLevel t) = some 0 := by decide
/-- A line one sample short of accepting HIGH, with a pin, a trigger set and a capture set. -/
def shortOfEdge (pin : Level) : State :=
  quiet.setInput .in2 ⟨1, 0, .rise, .rise, 0, 0, some .low, .high, 1, pin⟩
/-- The record word 0 of a rising edge on IN2 tagged with lane 0: A1h in its low byte (R180). -/
theorem test_sample_accepts_and_captures :
    after (.sample .in2) (shortOfEdge .high)
      (fun t => (readReg .inLevel t, readReg .capqHead0 t)) = some (0x44, 0xA1) := by decide
theorem test_laneCmdBadCommand_ignores_the_lane :
    after (.laneCmdBadCommand 9 7) quiet (fun t => readReg .cmdResult t) = some 0x30D := by decide
/-- A step on an empty queue counts one period of IOSC. -/
theorem test_step_counts_a_period : (answer (step quiet)).map (fun t => t.tb.tick.count) = some 1 := by
  decide
/-- The host's question: no table word spells a command, so the queue is left alone. -/
theorem test_withFetchWord_leaves_the_queue : (State.reset.withFetchWord 32 7).pending = [] := by
  decide

/-! ## Witnesses

Each theorem shows states and operands that meet the hypotheses of the statement it names, clause by
clause. A statement that has no hypotheses has none here. -/

/-- The quiet part during INIT. -/
def inInit : State := { quiet with init := some 224, pmem := ⟨[], 7, 0⟩ }

theorem witness_stepTakesFrontCommand :
    ({ quiet with pending := [.por, .lock] } : State).pending = .por :: [.lock] := by decide
theorem witness_commandsKeepTheQueue : ∃ t, exec .frameStart quiet = .next t := ⟨_, rfl⟩

/-- A tick of 24 periods at its last but one and at its last, a window timer and carrier and line
counts at theirs, and INIT short of its next entry and at it. -/
theorem witness_clockStepOnEmptyQueue :
    (let s := onLane .l2 (fun l => { l with ownDue := true }) quiet;
      s.pending = [] ∧ s.port.rstnLow = false ∧ (s.lane .l2).ownDue = true) ∧
    (quiet.pending = [] ∧ quiet.port.rstnLow = false ∧ ∀ n, (quiet.lane n).ownDue = false) ∧
    quiet.tb.tick.source = .iosc ∧
    (onTb (fun t => { t with tick := { t.tick with count := 22 } }) quiet).tb.tick.count + 1 <
      quiet.tb.tick.div.total ∧
    quiet.tb.tick.div.total ≤
      (onTb (fun t => { t with tick := { t.tick with count := 23 } }) quiet).tb.tick.count + 1 ∧
    ¬(quiet.tb.state = .external ∧ 256 ≤ quiet.tb.window + 1) ∧
    ((inState .external 4096).tb.state.monitored = true ∧
      (inState .external 4096).tb.window + 1 < 256) ∧
    256 ≤ (onTb (fun t => { t with window := 255 }) (inState .external 4096)).tb.window + 1 ∧
    (quiet.carrier .b).enable = false ∧
    (let c := (runningCarrier .high).carrier .a;
      c.enable = true ∧ c.p ≤ c.sub + 1 ∧ c.count + 1 < c.inUse.high.toNat) ∧
    (let c := (runningCarrier .low).carrier .a;
      c.enable = true ∧ c.p ≤ c.sub + 1 ∧ c.inUse.low.toNat ≤ c.count + 1) ∧
    (let c : Carrier := { (runningCarrier .low).carrier .a with prescale := 1 };
      c.enable = true ∧ c.sub + 1 < c.p) ∧
    2 ^ (quiet.input .in0).divider.toNat ≤ (quiet.input .in0).sampleCount + 1 ∧
    heldLow.pending = [] ∧ heldLow.port.rstnLow = true := by
  refine ⟨by decide, ⟨by decide, by decide, fun n => by cases n <;> decide⟩, ?_⟩
  decide
/-- The levels of the pairs of a carrier, INIT, and the queues that R175 and R176 name. -/
theorem witness_registerMapAndResetValues :
    quiet.init = none ∧ ((runningCarrier .high).carrier .a).pair = some ⟨5, 6⟩ ∧
      (quiet.carrier .a).pair = none ∧ quiet.capq.records = [] ∧ quiet.evq.placed = [] := by
  decide
theorem witness_idReadsItsNumber : ∃ t, exec (.readOnlyWrite 0x00 5) quiet = .next t := ⟨_, rfl⟩
theorem witness_softResetKeepsConfiguration :
    quiet.portListens = true ∧ quiet.init = none := by decide

/-- The first entry, the last one, and the part outside INIT. -/
theorem witness_initClearsOneEntry :
    (∀ k ∈ [0, 4095],
      let s : State := { State.reset with init := some 224, pmem := ⟨[], k, 0⟩ }
      s.init = some 224 ∧ s.pmem.wf = true ∧ s.pmem.cleared < 4096) ∧ quiet.init = none := by decide
theorem witness_heldPartTakesNoEvent :
    heldLow.port.rstnLow = true ∧ Instr.lock ≠ .por ∧ Instr.lock ≠ .initClear ∧
      Instr.lock ≠ .rstnAssert ∧ Instr.lock ≠ .rstnReset ∧ Instr.lock ≠ .frameStart ∧
      Instr.lock ≠ .frameEnd ∧ (∀ cut, Instr.lock ≠ .shortFrame cut) ∧
      ∀ i v, Instr.lock ≠ .inPinChange i v :=
  ⟨by decide, nofun, nofun, nofun, nofun, nofun, nofun, nofun, nofun⟩
/-- A frame in progress. -/
def inFrame (f : PortFrame) : State :=
  { quiet with port := { quiet.port with csnLow := true, frame := some f } }
/-- No frame, a frame before its command byte, and one whose next index is the word's, is another,
or is one that a plain read passes over, the last before the window's read and the window itself. -/
theorem witness_frameEdges :
    quiet.port.rstnLow = false ∧ quiet.port.frame = none ∧
      (inFrame ⟨1, none, none⟩).port.frame = some ⟨1, none, none⟩ ∧
      (inFrame ⟨1, some .write, some 0x14⟩).port.frame = some ⟨1, some .write, some 0x14⟩ ∧
      Direction.write ≠ .read ∧ (0x14 : Index) ≠ 0x16 ∧
      (inFrame ⟨1, some .read, some 0x10⟩).port.frame = some ⟨1, some .read, some 0x10⟩ ∧
      (regAt 0x10 ≠ none ∧ (0x10 : Index) ≠ 0x11) ∧
      regAt 0x12 = none ∧ (0x12 : Index) ≠ 0x13 := by decide
theorem witness_shortFrameIsAPortError : quiet.portListens = true := by decide

/-- Indices that name no register, the last of the window among them, and read-only ones. -/
theorem witness_accessErrors :
    quiet.portListens = true ∧ regAt 0x0F = none ∧ regAt 0x12 = none ∧ regAt 0x58 = none ∧
      regAt 0x7F = none ∧ regAt 0x00 = some .id ∧ Reg.access .id = .ro ∧
      regAt 0x57 = some (.lanePass .l5) ∧ Reg.access (.lanePass .l5) = .ro := by decide
theorem witness_plainRegisterWrites : quiet.portListens = true := by decide
theorem witness_undefinedOpsAreRefused :
    (0 : Word).extractLsb' 0 4 = 0 ∧ 6 ≤ ((6 : Word).extractLsb' 0 4).toNat ∧
      6 ≤ ((15 : Word).extractLsb' 0 4).toNat ∧ 6 ≤ (6 : BitVec 4).toNat ∧
      6 ≤ (15 : BitVec 4).toNat ∧ quiet.portListens = true ∧
      inInit.portListens = true := by decide
/-- A lane that has begun no step at this boundary, one that has with no write since, and one that
has with a write to the pointer's entry since. -/
theorem witness_patternWindowAccesses :
    quiet.portListens = true ∧ quiet.init = none ∧ quiet.pmem.wf = true ∧
      (quiet.lane .l0).sight = none ∧
      ((onLane .l0 (fun l => { l with sight := some [] }) quiet).lane .l0).sight = some [] ∧
      ((onLane .l0 (fun l => { l with sight := some [(quiet.ptr.addr, 5)] }) quiet).lane .l0).sight ≠
        none ∧
      ∃ t, exec (.pmemDataWrite 7) quiet = .next t :=
  ⟨by decide, by decide, by decide, by decide, by decide, by decide, ⟨_, rfl⟩⟩
theorem witness_initClosesTheWindow :
    State.reset.portListens = true ∧ State.reset.init ≠ none := by decide
theorem witness_settingWrites : quiet.portListens = true := by decide
theorem witness_laneCfgWrite :
    quiet.portListens = true ∧
      (∀ st ∈ [LaneState.armed, .running, .waiting],
        ((onLane .l0 (atLaunch st) quiet).lane .l0).state = st) ∧
      (quiet.lane .l0).state = .idle ∧
      ((onLane .l0 (fun l => { l with state := .faulted }) quiet).lane .l0).state = .faulted ∧
      (3 : Word).extractLsb' 0 2 = 3 ∧ (0x0C : Word).extractLsb' 2 2 = 3 ∧
      (0x3A : Word).extractLsb' 0 2 ≠ 3 ∧ (0x3A : Word).extractLsb' 2 2 ≠ 3 := by decide
theorem witness_groupMembersWrite :
    quiet.portListens = true ∧ (quiet.group .g0).arrived = 0 ∧
      ((onGroup .g0 3 1 quiet).group .g0).arrived ≠ 0 := by decide
theorem witness_carrierRegisterWrites :
    (runningCarrier .high).portListens = true ∧ ((runningCarrier .high).carrier .a).enable = true ∧
      (0x11 : Word).extractLsb' 4 4 ≠ ((runningCarrier .high).carrier .a).prescale ∧
      (0 : Word).extractLsb' 4 4 = ((runningCarrier .high).carrier .a).prescale ∧
      (1 : Word).extractLsb' 4 4 = ((runningCarrier .high).carrier .a).prescale ∧
      (quiet.carrier .a).enable = false ∧ (0 : Word).getLsbD 0 = false ∧
      (1 : Word).getLsbD 0 = true ∧ (0x0100 : Word).extractLsb' 0 8 = 0 ∧
      (0x0001 : Word).extractLsb' 8 8 = 0 ∧ (0x0101 : Word).extractLsb' 8 8 ≠ 0 ∧
      (0x0101 : Word).extractLsb' 0 8 ≠ 0 := by decide
theorem witness_inputCfgWrite : quiet.portListens = true := by decide
theorem witness_captureQueueCommands :
    quiet.portListens = true ∧ quiet.init = none ∧ quiet.capq.records = [] ∧
      ({ quiet with capq := ⟨[edge2], 9, 4⟩ } : State).capq.records = [edge2] := by decide
theorem witness_eventQueuePop :
    quiet.portListens = true ∧ quiet.evq.placed = [] ∧
      ((fullEvq quiet).evq.placed = ⟨0, 0, .mark .l0 1 2⟩ :: List.replicate 31 ⟨0, 0, .mark .l0 1 2⟩ ∧
        (fullEvq quiet).evq.deferral = []) ∧
      (deferred.evq.placed = ⟨0, 0, .mark .l0 1 2⟩ :: List.replicate 31 ⟨0, 0, .mark .l0 1 2⟩ ∧
        deferred.evq.deferral = .lane .l0 :: [] ∧
        (deferred.lane .l0).queue.awaiting = ⟨next9, ⟨3, 0, .aborted .l0 9 0 .flushed 8⟩⟩ :: []) ∧
      tbDeferred.evq.placed = ⟨0, 0, .mark .l0 1 2⟩ :: List.replicate 31 ⟨0, 0, .mark .l0 1 2⟩ ∧
      tbDeferred.evq.deferral = .timebase :: [] ∧
      tbDeferred.tb.record = some ⟨.holdover, 1, 255, 6⟩ := by decide

/-- Room for one record more, a full queue, a record already waiting, and a lane's new entry. -/
theorem witness_eventOffersAndDeferral :
    (let s : State := { quiet with evq := ⟨List.replicate 31 ⟨0, 0, .mark .l0 1 2⟩, [], 0⟩ };
      s.evq.placed.length < 32 ∧ s.evq.deferral = [] ∧ s.tb.record = none) ∧
    EventBody.timebase .holdover 1 0 =
      .timebase .holdover (if true then 1 else 0) (if false then 1 else 0) ∧
    32 ≤ (fullEvq quiet).evq.placed.length ∧ deferred.evq.deferral ≠ [] ∧
    (fullEvq quiet).tb.record = none ∧ tbDeferred.tb.record = some ⟨.holdover, 1, 255, 6⟩ ∧
    deferred.evq.deferral = (fullEvq quiet).evq.deferral ++ [.lane .l0] := by decide
theorem witness_recordWordsAtTheHeads :
    ({ quiet with evq := ⟨[⟨5, 1, .groupReleased .g1 3 9⟩], [], 0⟩ } : State).evq.placed =
        ⟨5, 1, .groupReleased .g1 3 9⟩ :: [] ∧
      ({ quiet with capq := ⟨[edge2], 9, 4⟩ } : State).capq.records = edge2 :: [] := by decide

theorem witness_timebaseCommands :
    quiet.portListens = true ∧ quiet.init = none ∧ quiet.tb.state = .internal ∧
      (∀ st ∈ [TbState.qualifying, .external, .holdover, .requalifying],
        (inState st 0).tb.state = st ∧ (inState st 0).portListens = true) := by decide
theorem witness_tickBoundaryEvent : quiet.port.rstnLow = false := by decide

/-- EXTERNAL in a REFIN tick of 10 periods at a count. -/
def refinTick (count : Nat) : State :=
  onTb (fun t => { t with tick := ⟨.refin, .external, ⟨0, 10⟩, count⟩ }) (inState .external 4096)
theorem witness_refinEdgesAndLock :
    quiet.port.rstnLow = false ∧ quiet.tb.state = .internal ∧
      (inState .holdover 0).tb.state = .holdover ∧
      (∀ k ∈ [0, 4094], (inState .qualifying k).tb.state = .qualifying ∧
        (inState .qualifying k).tb.qual + 1 < 4096) ∧
      ((inState .requalifying 4095).tb.qual + 1 = 4096 ∧
        (inState .requalifying 4095).tb.tick.source = .iosc) ∧
      (inState .external 4096).tb.tick.source = .iosc ∧
      ((refinTick 8).tb.state = .external ∧ (refinTick 8).tb.tick.source = .refin ∧
        (refinTick 8).tb.tick.count + 1 < (refinTick 8).tb.tick.div.total) ∧
      (refinTick 9).tb.tick.div.total ≤ (refinTick 9).tb.tick.count + 1 := by decide

/-- EXTERNAL with a FAULT lane running and a second lane held at group 1. -/
def losing : State :=
  onLane .l0 (fun l => { atLaunch .running l with cfg := ⟨.low, .low, .fault, false⟩ })
    (onGroup .g1 6 2 (inState .external 4096))
theorem witness_referenceLoss :
    quiet.port.rstnLow = false ∧ (inState .qualifying 9).tb.state = .qualifying ∧
      (inState .holdover 0).tb.state = .holdover ∧ losing.port.rstnLow = false ∧
      losing.tb.state = .external := by decide

/-- A running lane with a number of launches waiting, and staged words. -/
def staged (d0 d1 : Word) (waiting : Nat) : State :=
  onLane .l0
    (fun l => { atLaunch .running l with
      queue := { (atLaunch .running l).queue with pending := List.replicate waiting next9 } })
    { quiet with staging := ⟨d0, d1, 0⟩ }
theorem witness_submitChecksAndQueues :
    quiet.portListens = true ∧ quiet.init = none ∧ 6 ≤ (6 : BitVec 3).toNat ∧
      (0 : BitVec 3).toNat = LaneId.num .l0 ∧
      ((onLane .l0 (fun l => { l with state := .faulted }) quiet).lane .l0).state = .faulted ∧
      (((staged 0 0 3).lane .l0).state = .running ∧ 4 ≤ ((staged 0 0 3).lane .l0).queue.slots) ∧
      (((staged 0 4 2).lane .l0).queue.slots < 4 ∧
        4 ≤ ((staged 0 4 2).staging.desc1.extractLsb' 0 3).toNat) ∧
      (let s := staged 0 0 2;
        ¬(4 ≤ (s.staging.desc1.extractLsb' 0 3).toNat ∨
          4 ≤ (s.staging.desc0.extractLsb' 20 3).toNat ∨
          (s.staging.desc1.extractLsb' 0 3 = 3 ∧ 4 ≤ (s.staging.desc1.extractLsb' 4 3).toNat) ∨
          s.staging.desc1.extractLsb' 0 3 = 2)) := by decide
/-- The last clause's own negation, at a start on group 1 by a member. -/
theorem witness_submitChecksAndQueues_onGroup :
    let s := onGroup .g1 1 0 (staged 0 0x12 0)
    ((s.lane .l0).state = .running ∧ (s.lane .l0).queue.slots < 4) ∧
      ¬(4 ≤ (s.staging.desc1.extractLsb' 0 3).toNat ∨
        4 ≤ (s.staging.desc0.extractLsb' 20 3).toNat ∨
        (s.staging.desc1.extractLsb' 0 3 = 3 ∧ 4 ≤ (s.staging.desc1.extractLsb' 4 3).toNat) ∨
        (s.staging.desc1.extractLsb' 0 3 = 2 ∧ (2 ≤ (s.staging.desc1.extractLsb' 4 3).toNat ∨
          ∃ g : GroupId, (s.staging.desc1.extractLsb' 4 3).toNat = g.num ∧
            LaneSet.has (s.group g).members .l0 = false))) := by
  refine ⟨by decide, ?_⟩
  rintro (h | h | h | ⟨-, h | ⟨g, h⟩⟩)
  · revert h; decide
  · revert h; decide
  · revert h; decide
  · revert h; decide
  · cases g <;> revert h <;> decide

/-- Section 4.9's descriptor and the words that stage it. -/
theorem witness_submitArmsAnIdleLane :
    let s : State := { quiet with staging := ⟨0x07002004, 0, 0⟩ }
    s.portListens = true ∧ s.init = none ∧ (0 : BitVec 3).toNat = LaneId.num .l0 ∧
      (s.lane .l0).state = .idle ∧ (s.lane .l0).queue.pending = [] ∧
      (s.lane .l0).queue.slots < 4 ∧ s.staging.Holds ⟨4, .immediate, 2, .low, 7⟩ ∧
      ∀ g, (Descriptor.mk 4 .immediate 2 .low 7).start ≠ .onGroup g :=
  ⟨by decide, by decide, by decide, by decide, by decide, by decide,
    ⟨by decide, by decide, by decide, by decide, by decide⟩, nofun⟩
/-- A group of one, a group that waits for a second member, and one with a member FAULTED. -/
theorem witness_submitArrivesAtGroup :
    (∀ members ∈ [(1 : LaneSet), 3],
      let s : State := onGroup .g1 members 0 { quiet with staging := ⟨0x07002004, 0x12, 0⟩ }
      s.portListens = true ∧ s.init = none ∧ (0 : BitVec 3).toNat = LaneId.num .l0 ∧
        (s.lane .l0).state = .idle ∧ (s.lane .l0).queue.pending = [] ∧
        (s.lane .l0).queue.slots < 4 ∧ s.staging.Holds ⟨4, .onGroup .g1, 2, .low, 7⟩ ∧
        LaneSet.has (s.group .g1).members .l0 = true ∧
        (¬ ∃ m, LaneSet.has (s.group .g1).members m = true ∧ (s.lane m).state = .faulted) ∧
        let s' : State := onLane .l1 (fun l => { l with state := .faulted }) s
        (s'.lane .l0).state = .idle ∧ LaneSet.has 3 .l1 = true ∧
          (s'.lane .l1).state = .faulted) ∧
    LaneSet.insert 0 .l0 = 1 ∧ LaneSet.insert 0 .l0 ≠ 3 := by
  refine ⟨fun members h => ?_, by decide, by decide⟩
  have h : members = 1 ∨ members = 3 := by simpa using h
  rcases h with rfl | rfl <;>
    exact ⟨by decide, by decide, by decide, by decide, by decide, by decide,
      ⟨by decide, by decide, by decide, by decide, by decide, by decide⟩, by decide,
      fun ⟨m, h⟩ => by revert h; cases m <;> decide, by decide⟩
/-- The four start conditions of a launch behind the active one. -/
def starts : List StartCond := [.immediate, .atTime 9, .onTrigger .in3, .onGroup .g1]
theorem witness_stopAtEndCommand :
    quiet.portListens = true ∧ quiet.init = none ∧ 6 ≤ (6 : BitVec 3).toNat ∧
      (0 : BitVec 3).toNat = LaneId.num .l0 ∧ (quiet.lane .l0).state = .idle ∧
      (∀ st ∈ [LaneState.running, .waiting],
        ((onLane .l0 (atLaunch st) quiet).lane .l0).state = st) ∧
      (onLane .l0 (atLaunch .armed) quiet).lane .l0 = atLaunch .armed (quiet.lane .l0) ∧
      (∀ c ∈ starts,
        let s := onLane .l0 (fun l => atLaunch .armed { l with
          queue := { l.queue with pending := [{ next9 with start := c }] } }) quiet
        (s.lane .l0).state = .armed ∧ (s.lane .l0).queue.active = some launch7 ∧
          (s.lane .l0).queue.pending = { next9 with start := c } :: []) ∧
      next9.start = .immediate := by decide
theorem witness_spliceCommand :
    quiet.portListens = true ∧ quiet.init = none ∧ 6 ≤ (7 : BitVec 3).toNat ∧
      (0 : BitVec 3).toNat = LaneId.num .l0 ∧ (quiet.lane .l0).queue.active = none ∧
      (let s := onLane .l0 (atLaunch .running) quiet;
        (s.lane .l0).queue.active ≠ none ∧ (s.lane .l0).queue.pending = []) ∧
      (let b : Descriptor := { next9 with start := .onTrigger .in3 };
        let s := onLane .l0 (fun l => { atLaunch .running l with queue :=
          { (atLaunch .running l).queue with pending := [b] } }) quiet;
        (s.lane .l0).queue.active ≠ none ∧ (s.lane .l0).queue.pending = b :: [] ∧
          b.start ≠ .immediate) ∧
      (let s := onLane .l0 (fun l => behind (atLaunch .running l)) quiet;
        (s.lane .l0).queue.active ≠ none ∧ (s.lane .l0).queue.pending = next9 :: [] ∧
          next9.start = .immediate) := by decide
theorem witness_abortCommand :
    quiet.portListens = true ∧ quiet.init = none ∧ 6 ≤ (6 : BitVec 3).toNat ∧
      (0 : BitVec 3).toNat = LaneId.num .l0 ∧ quiet.evq.deferral = [] ∧
      quiet.evq.placed.length +
        ([.aborted .l0 7 0 .hostAbort 4, .aborted .l0 9 0 .flushed 8] : List EventBody).length ≤
          32 := by decide
/-- A FAULTED lane with launches waiting. -/
def faultedWith (waiting : List Descriptor) : State :=
  onLane .l0 (fun l => { l with
    state := .faulted, cause := some .runaway, queue := ⟨[], none, waiting⟩ }) quiet
theorem witness_clearFaultCommand :
    quiet.portListens = true ∧ quiet.init = none ∧ 6 ≤ (6 : BitVec 3).toNat ∧
      (0 : BitVec 3).toNat = LaneId.num .l0 ∧ (quiet.lane .l0).state ≠ .faulted ∧
      ((faultedWith []).lane .l0).state = .faulted ∧
      ((faultedWith []).lane .l0).queue.pending = [] ∧
      (∀ c ∈ starts, ((faultedWith [{ next9 with start := c }]).lane .l0).queue.pending =
        { next9 with start := c } :: []) ∧ next9.start = .immediate := by
  decide

/-- An ARMED lane whose start time is the next TIME. -/
def notDue : State :=
  onLane .l0 (fun l => { atLaunch .armed l with queue := { l.queue with
    active := some { launch7 with desc := { launch7.desc with start := .atTime 1 } } } }) quiet
/-- A lane with a count of ticks left. -/
def left (st : LaneState) (r : BitVec 20) : State :=
  onLane .l0 (fun l => { atLaunch st l with remaining := r }) quiet
theorem witness_laneBoundaryWithoutStep :
    quiet.port.rstnLow = false ∧
      ((onLane .l0 (fun l => { l with boundaryTaken := true }) quiet).lane .l0).boundaryTaken =
        true ∧
      ((quiet.lane .l0).boundaryTaken = false ∧ (quiet.lane .l0).state = .idle) ∧
      (notDue.lane .l0).boundaryTaken = false ∧ (notDue.lane .l0).sinceBoundary = false ∧
      (notDue.lane .l0).state = .armed ∧
      (notDue.lane .l0).splicePending = false ∧
      (notDue.lane .l0).queue.active =
        some { launch7 with desc := { launch7.desc with start := .atTime 1 } } ∧
      launch7.startMet = false := by decide
theorem witness_laneBoundaryWithoutStep_notTime : StartCond.atTime 1 ≠ .atTime notDue.tb.time := by
  intro h; injection h with h; revert h; decide
/-- A hold with 2 ticks left, and waits with 0, which is no timeout, and with 2. -/
theorem witness_laneBoundaryWithoutStep_counting :
    (((left .running 2).lane .l0).state = .running ∧
      2 ≤ ((left .running 2).lane .l0).remaining.toNat) ∧
      ((left .waiting 0).lane .l0).remaining ≠ 1 ∧ ((left .waiting 2).lane .l0).remaining ≠ 1 ∧
      ((left .waiting 2).lane .l0).boundaryTaken = false ∧
      ((left .waiting 2).lane .l0).sinceBoundary = false ∧
      ((left .waiting 2).lane .l0).splicePending = false ∧
      ((left .waiting 2).lane .l0).waitSatisfied = false := by decide
/-- A lane ARMED, or WAITING with its wait satisfied, since the boundary handed on. -/
theorem witness_laneBoundaryWithoutStep_after :
    ∀ s ∈ [reached dueStart, reached satisfied],
      (s.lane .l0).boundaryTaken = false ∧ s.actsAfter .l0 := by decide
theorem witness_boundaryStepsToNextHold :
    (∀ s ∈ [endOfHold, satisfied],
      s.takesLaneEvent .l0 ∧
        (s.lane .l0).splicePending = false ∧
        decodeStep (s.fetchWord .l0 ((s.lane .l0).stepAddr + 1)) = some (.hold .high 600)) ∧
      ((endOfHold.lane .l0).state = .running ∧ (endOfHold.lane .l0).remaining = 1) ∧
      (satisfied.lane .l0).state = .waiting ∧ (satisfied.lane .l0).waitSatisfied = true := by decide
/-- A SIGNAL at 005h and the HOLD of 600 behind it: a run of two pieces of work from the step or the
start a lane event brings about, none left after them. -/
theorem witness_boundaryStepsToNextHold_runs :
    2 ≤ stepBudget ∧
      (let s := withEntry 5 0x800000FF (withEntry 6 0x14000258 endOfHold);
        let w := runWork 2 [.step .l0 5] s;
        (w.1.lane .l0).remaining = 600 ∧ w.1.evq.placed.length = 1 ∧ w.2 = []) ∧
      (runWork 2 [.step .l0 5] satisfied).2 = [] ∧
      (runWork 2 [.step .l0 5] (lastTick false)).2 = [] ∧
      ((lastTick false).lane .l0).waitSource = some (.line .in1) ∧
      ((lastTick false).lane .l0).waitStrict = false ∧
      (runWork 2 [.start .l0] dueStart).2 = [] := by
  decide
theorem witness_timeoutExpiryOfAWait :
    (∀ strict ∈ [false, true],
      let s := lastTick strict
      s.takesLaneEvent .l0 ∧
        (s.lane .l0).splicePending = false ∧ (s.lane .l0).waitSatisfied = false ∧
        (s.lane .l0).state = .waiting ∧ (s.lane .l0).remaining = 1 ∧
        (s.lane .l0).waitStrict = strict ∧ (s.lane .l0).waitSource = some (.line .in1) ∧
        (s.lane .l0).queue.active = some launch7 ∧
        decodeStep (s.fetchWord .l0 ((s.lane .l0).stepAddr + 1)) = some (.hold .high 600)) ∧
      (lastTick true).heldAlone .l0 := by
  refine ⟨by decide, fun g => by cases g <;> decide⟩
/-- The same strict expiry while another lane is held at a group. -/
theorem witness_timeoutExpiryOfAWait_held :
    let s := onGroup .g0 6 2 (lastTick true)
    s.takesLaneEvent .l0 ∧ (s.lane .l0).splicePending = false ∧
      (s.lane .l0).waitSatisfied = false ∧ (s.lane .l0).state = .waiting ∧
      (s.lane .l0).remaining = 1 ∧ (s.lane .l0).waitStrict = true ∧ ¬ s.heldAlone .l0 :=
  ⟨by decide, by decide, by decide, by decide, by decide, by decide,
    fun h => absurd (h .g0) (by decide)⟩
/-- A start met, and a start time that is TIME. -/
theorem witness_launchStartRunsTheEntry :
    (∀ s ∈ [dueStart, dueTime],
      s.takesLaneEvent .l0 ∧
        (s.lane .l0).splicePending = false ∧ (s.lane .l0).state = .armed ∧
        decodeStep (s.fetchWord .l0 4) = some (.hold .high 600)) ∧
      (dueStart.lane .l0).queue.active = some { launch7 with startMet := true } ∧
      (dueTime.lane .l0).queue.active =
        some { launch7 with desc := { launch7.desc with start := .atTime dueTime.tb.time } } := by
  decide
theorem witness_spliceLandingRunsTheNextLaunch :
    ∀ st ∈ [LaneState.waiting, .armed, .running],
      let s := landing st
      s.takesLaneEvent .l0 ∧
        (s.lane .l0).splicePending = true ∧ (s.lane .l0).state = st ∧
        (s.lane .l0).remaining = 1 ∧
        decodeStep (s.fetchWord .l0 ((s.lane .l0).stepAddr + 1)) ≠ none ∧
        (s.lane .l0).queue.active = some launch7 ∧ (s.lane .l0).queue.pending = next9 :: [] ∧
        next9.start = .immediate ∧ decodeStep (s.fetchWord .l0 next9.entry) = some (.hold .high 600) := by
  decide

/-- A running lane with a stack, a word in the entry it comes to. -/
def atStep (w : Word) (zeroRun : Nat) (stack : List StackFrame) : State :=
  withEntry 9 w
    (onLane .l0 (fun l => { atLaunch .running l with zeroRun := zeroRun, stack := stack }) quiet)
theorem witness_flowSteps :
    (∀ stack ∈ [[StackFrame.sub 1, .sub 2, .sub 3, .sub 4], [.loop 3 2], [.loop 3 1], []],
        ((atStep 0x60000000 15 stack).lane .l0).splicePending = false ∧
          ((atStep 0x60000000 15 stack).lane .l0).zeroRun < 16 ∧
          ((atStep 0x60000000 15 stack).lane .l0).stack = stack) ∧
      (atStep 0x30000003 15 []).fetchWord .l0 9 = 0x30000003 ∧
      (atStep 0x40000000 15 []).fetchWord .l0 9 = 0x40000000 ∧
      (atStep 0x50000180 15 []).fetchWord .l0 9 = 0x50000180 ∧
      (atStep 0x60000000 15 []).fetchWord .l0 9 = 0x60000000 ∧
      (atStep 0x70000180 15 []).fetchWord .l0 9 = 0x70000180 ∧
      decodeStep 0x30000003 = some (.loop 3) ∧ decodeStep 0x40000000 = some .next ∧
      decodeStep 0x50000180 = some (.sub 0x180) ∧ decodeStep 0x60000000 = some .back ∧
      decodeStep 0x70000180 = some (.link 0x180) ∧ 2 ≤ (2 : BitVec 12).toNat := by decide
theorem witness_signalTuneAndWaitSteps :
    ((atStep 0 15 []).lane .l0).splicePending = false ∧ ((atStep 0 15 []).lane .l0).zeroRun < 16 ∧
      (atStep 0x800000FF 15 []).fetchWord .l0 9 = 0x800000FF ∧
      (atStep 0x90003569 15 []).fetchWord .l0 9 = 0x90003569 ∧
      (atStep 0x21400005 15 []).fetchWord .l0 9 = 0x21400005 ∧
      decodeStep 0x800000FF = some (.signal 0xFF) ∧
      decodeStep 0x90003569 = some (.tune .a 0x35 0x69) ∧
      decodeStep 0x21400005 = some (.wait (.line .in1) .high false 5) := by decide
/-- Frames on the stack, pass 1 of 2 with and without stop pending and the last pass, and a launch
of every start condition behind it. -/
theorem witness_endOfAPass :
    let s := atStep 0 15 []
    (s.lane .l0).splicePending = false ∧ (s.lane .l0).zeroRun < 16 ∧ (s.lane .l0).stack = [] ∧
      (s.lane .l0).queue.active = some launch7 ∧ decodeStep (s.fetchWord .l0 9) = some .endPass ∧
      (s.lane .l0).stopPending = false ∧ (s.lane .l0).queue.pending = [] ∧
      ((atStep 0 15 [.sub 1]).lane .l0).stack ≠ [] ∧
      ¬(launch7.desc.passes ≠ 0 ∧
        ((s.lane .l0).passesDone + 1).toNat = launch7.desc.passes.toNat) ∧
      ((onLane .l0 (fun l => { l with stopPending := true }) s).lane .l0).stopPending = true ∧
      launch7.desc.passes ≠ 0 ∧
      (((onLane .l0 (fun l => { l with passesDone := 1 }) s).lane .l0).passesDone + 1).toNat =
        launch7.desc.passes.toNat ∧
      ∀ c ∈ starts,
        ((onLane .l0 (fun l => { l with
          queue := { l.queue with pending := [{ next9 with start := c }] } }) s).lane
            .l0).queue.pending = { next9 with start := c } :: [] := by decide
theorem witness_illegalAndRunawaySteps :
    (∀ k ∈ [0, 16], ((atStep 0x10000000 k []).lane .l0).queue.active = some launch7 ∧
      decodeStep ((atStep 0x10000000 k []).fetchWord .l0 9) = none) ∧
      (atStep 0x10000000 0 []).heldAlone .l0 ∧ (atStep 0x40000000 16 []).heldAlone .l0 ∧
      decodeStep ((atStep 0x40000000 16 []).fetchWord .l0 9) = some .next ∧
      ((atStep 0x40000000 16 []).lane .l0).splicePending = false ∧
      ((atStep 0x40000000 16 []).lane .l0).zeroRun = 16 ∧
      (∀ level d, StepRecord.next ≠ .hold level d) ∧
      ∀ src level strict t, StepRecord.next ≠ .wait src level strict t :=
  ⟨by decide, fun g => by cases g <;> decide, fun g => by cases g <;> decide, by decide, by decide,
    by decide, nofun, nofun⟩
/-- An illegal record, and a zero-duration one after 16, while another lane is held at a group. -/
theorem witness_illegalAndRunawaySteps_held :
    let s := onGroup .g0 7 2 (atStep 0x10000000 0 [])
    let t := onGroup .g0 7 2 (atStep 0x40000000 16 [])
    decodeStep (s.fetchWord .l0 9) = none ∧ ¬ s.heldAlone .l0 ∧
      decodeStep (t.fetchWord .l0 9) = some .next ∧ (t.lane .l0).splicePending = false ∧
      16 ≤ (t.lane .l0).zeroRun ∧ ¬ t.heldAlone .l0 :=
  ⟨by decide, fun h => absurd (h .g0) (by decide), by decide, by decide, by decide,
    fun h => absurd (h .g0) (by decide)⟩
/-- Lanes 0 and 1 held at group 0, lane 2 its running member. -/
def atBarrier : State :=
  onGroup .g0 7 3
    (onLane .l0 (fun l => { atLaunch .waiting l with waitSource := some (.group .g0) })
      (onLane .l1
        (fun l => { atLaunch .armed l with queue := { l.queue with
          active := some { launch7 with desc := { launch7.desc with start := .onGroup .g0 } } } })
        (onLane .l2 (atLaunch .running) quiet)))
theorem witness_brokenBarrierFaultsHeldLanes :
    LaneSet.has (atBarrier.group .g0).members .l2 = true ∧
      LaneSet.erase (atBarrier.group .g0).arrived .l2 ≠ 0 ∧
      LaneSet.erase (atBarrier.group (GroupId.other .g0)).arrived .l2 = 0 ∧
      (∀ m, m = .l2 ∨ LaneSet.has (atBarrier.group .g0).arrived m = true →
        (atBarrier.lane m).queue.active ≠ none) ∧
      atBarrier.evq.deferral = [] ∧
      atBarrier.evq.placed.length + [LaneId.l2, .l0, .l1].length ≤ 32 ∧
      (LaneId.l0 ≠ .l2 ∧ LaneSet.has (atBarrier.group .g0).arrived .l0 = true) ∧
      LaneId.l5 ≠ .l2 ∧ ¬(LaneSet.has (atBarrier.group .g0).arrived .l5 = true) :=
  ⟨by decide, by decide, by decide, fun m => by cases m <;> decide, by decide, by decide,
    by decide, by decide, by decide⟩
/-- Lane 2's fault breaks group 0, and lane 1, held there, is a member of group 1, where lane 3 is
held: no lane is held at both. -/
theorem witness_brokenBarrierFaultsHeldLanes_second :
    let s := onGroup .g1 0xA 8 atBarrier
    LaneSet.has (s.group .g1).members .l2 = false ∧ LaneSet.has (s.group .g1).members .l1 = true ∧
      LaneSet.erase (s.group .g1).arrived .l2 ≠ 0 ∧
      ∀ m, ¬(LaneSet.has (LaneSet.erase (s.group .g0).arrived .l2) m = true ∧
        LaneSet.has (LaneSet.erase (s.group .g1).arrived .l2) m = true) :=
  ⟨by decide, by decide, by decide, fun m => by cases m <;> decide⟩
/-- Lane 2 comes to a WAIT on group 0 where two others are held, and where one of them is not. -/
def arriving (arrived : LaneSet) : State :=
  withEntry 9 0x24000000 (onGroup .g0 7 arrived atBarrier)
theorem witness_groupReleaseAtABoundary :
    (∀ arrived ∈ [(1 : LaneSet), 3],
      let s := arriving arrived
      decodeStep (s.fetchWord .l2 9) = some (.wait (.group .g0) .low false 0) ∧
        (s.lane .l2).splicePending = false ∧ (s.lane .l2).zeroRun < 16 ∧
        LaneSet.has (s.group .g0).members .l2 = true ∧
        ∀ m ∈ LaneId.all, LaneSet.has (s.group .g0).members m = true →
          (s.lane m).state ≠ .faulted) ∧
      LaneSet.insert ((arriving 1).group .g0).arrived .l2 ≠ ((arriving 1).group .g0).members ∧
      LaneSet.insert ((arriving 3).group .g0).arrived .l2 = ((arriving 3).group .g0).members ∧
      ((arriving 3).lane .l0).state = .waiting ∧ ((arriving 3).lane .l1).state = .armed := by
  decide
/-- The failing checks: no member, a member FAULTED, and a zero-run count of 16. -/
theorem witness_groupReleaseAtABoundary_checks :
    LaneSet.has ((onGroup .g0 3 3 atBarrier).group .g0).members .l2 ≠ true ∧
      (let s := onLane .l0 (fun l => { l with state := .faulted }) (arriving 2);
        LaneSet.has (s.group .g0).members .l0 = true ∧ (s.lane .l0).state = .faulted) ∧
      16 ≤ ((onLane .l2 (fun l => { l with zeroRun := 16 }) (arriving 3)).lane .l2).zeroRun := by
  decide

/-- A lane at a step level. -/
def showing (v : StepLevel) (gate : Gate) (trail : Option CarrierId) (guard : Bool) : Lane :=
  { atLaunch .running (quiet.lane .l0) with
    level := some v, gate := gate, trail := trail, cfg := ⟨.highz, .low, .continue, guard⟩ }
theorem witness_gatesAndPins :
    (showing (.carrier .a) .closed none false).called = some .a ∧
      (showing (.carrier .b) .closed none true).called = some .b ∧
      (showing .high .closed none true).called = none ∧
      (showing .low (.open .a) none true).gate = .open .a ∧
      ((runningCarrier .high).carriers.get .a).level = .high ∧
      ((runningCarrier .low).carriers.get .a).level ≠ .high ∧
      (showing (.carrier .a) .closed (some .a) true).trail = some .a ∧
      heldLow.port.rstnLow = true ∧ quiet.port.rstnLow = false ∧ (quiet.lane .l0).trail = none ∧
      (quiet.lane .l0).state = .idle ∧
      ((onLane .l0 (atLaunch .armed) quiet).lane .l0).state = .armed ∧
      ((faultedWith []).lane .l0).state = .faulted ∧
      (showing .high (.open .a) none true).state = .running := by decide
theorem witness_gatesAndPins_shutOut :
    ∀ y, (showing (.carrier .a) (.arming .a) none true).gate ≠ .open y := nofun
/-- A change of segment from A to B with a trail on B standing, the gate OPEN on A at its HIGH
phase and at its LOW phase; and a gate not OPEN with no trail on B. -/
theorem witness_gatesAndPins_change :
    let l := showing (.carrier .a) (.open .a) (some .b) true
    let m := showing (.carrier .b) (.open .a) (some .b) true
    let m' := showing (.carrier .b) (.arming .a) none true
    l.called = some .a ∧ m.called = some .b ∧ m'.called = some .b ∧ CarrierId.a ≠ .b ∧
      m.cfg.guard = true ∧ m.gate = .open .a ∧ m.trail = some .b ∧ m'.trail ≠ some .b ∧
      m'.gate ≠ .open .a ∧
      (((runningCarrier .high).carriers.get .a).enable = true ∧
        ((runningCarrier .high).carriers.get .a).level = .high) ∧
      ((runningCarrier .low).carriers.get .a).level ≠ .high ∧
      (quiet.carriers.get .a).enable = false := by decide
theorem witness_carrierPhaseEvents :
    (∀ p ∈ [Level.high, .low],
      (runningCarrier p).port.rstnLow = false ∧ ((runningCarrier p).carrier .a).enable = true ∧
        ((runningCarrier p).carrier .a).phase = p) ∧ (quiet.carrier .a).enable = false := by decide
/-- A line that has accepted its pin, one with a run short of its 2 samples or not, and one that is
UNSETTLED. -/
theorem witness_inputPinsAndSamples :
    quiet.port.rstnLow = false ∧
      ((shortOfEdge .low).input .in2).accepted = some ((shortOfEdge .low).input .in2).pin ∧
      (((shortOfEdge .high).input .in2).accepted = some .low ∧
        Level.low ≠ ((shortOfEdge .high).input .in2).pin ∧
        ((shortOfEdge .high).input .in2).f ≤ ((shortOfEdge .high).input .in2).runCount + 1) ∧
      (let s := quiet.setInput .in2 { (shortOfEdge .high).input .in2 with filter := 7 };
        (s.input .in2).accepted = some .low ∧ Level.low ≠ (s.input .in2).pin ∧
          (s.input .in2).runCount + 1 < (s.input .in2).f) ∧
      (quiet.input .in0).accepted = none ∧ 1 < (quiet.input .in0).f ∧
      (let s := quiet.setInput .in0 { quiet.input .in0 with runCount := 1 };
        (s.input .in0).accepted = none ∧ (s.input .in0).f ≤ 1 + 1) := by decide
/-- A line whose sets take a rising edge and one whose sets take none, a lane WAITING on it, one
ARMED on it, one that is neither, and a Capture Queue with room for one record and one without. -/
def watched (capq : Nat) : State :=
  onLane .l1
    (fun l => { atLaunch .armed l with queue := { l.queue with
      active := some { launch7 with desc := { launch7.desc with start := .onTrigger .in2 } } } })
    (onLane .l0 (fun l => { atLaunch .waiting l with waitSource := some (.line .in2) })
      { shortOfEdge .high with capq := ⟨List.replicate capq edge2, 255, 0⟩ })
theorem witness_edgesTriggerAndCapture :
    (((watched 31).input .in2).trigger = .rise ∧ ((watched 31).input .in2).capture = .rise ∧
      Edge.rise = .rise) ∧
      (((watched 31).lane .l0).state = .waiting ∧
        ((watched 31).lane .l0).waitSource = some (.line .in2)) ∧
      (((watched 31).lane .l1).state = .armed ∧
        ((watched 31).lane .l1).queue.active =
          some { launch7 with desc := { launch7.desc with start := .onTrigger .in2 } }) ∧
      ((watched 31).lane .l2).state = .idle ∧ (quiet.input .in2).trigger = .none ∧
      (quiet.input .in2).capture = .none ∧ (watched 31).capq.records.length < 32 ∧
      32 ≤ (watched 32).capq.records.length ∧
      ((watched 31).input .in2).tagCode.toNat = LaneId.num .l0 ∧
      6 ≤ (quiet.input .in2).tagCode.toNat := by decide

/-- One word of every kind, at the bounds of the fields that make a record illegal. -/
theorem witness_stepRecordLayout :
    ((0x1FF00000 : Word).toNat / 2 ^ 28 = 1 ∧ (0x1FF00000 : Word).toNat % 2 ^ 20 = 0) ∧
      (0x10000001 : Word).toNat % 2 ^ 20 ≠ 0 ∧
      ((0x26000000 : Word).toNat / 2 ^ 28 = 2 ∧ 6 ≤ (0x26000000 : Word).toNat / 2 ^ 24 % 16) ∧
      (0x23000000 : Word).toNat / 2 ^ 24 % 16 = LineId.num .in3 ∧
      (0x25000000 : Word).toNat / 2 ^ 24 % 16 = 4 + GroupId.num .g1 ∧
      ((0x3FFFF000 : Word).toNat / 2 ^ 28 = 3 ∧ (0x3FFFF000 : Word).toNat % 2 ^ 12 = 0) ∧
      (0x30000001 : Word).toNat % 2 ^ 12 ≠ 0 ∧ (0x0FFFFFFF : Word).toNat / 2 ^ 28 = 0 ∧
      (0x4FFFFFFF : Word).toNat / 2 ^ 28 = 4 ∧ (0x50000000 : Word).toNat / 2 ^ 28 = 5 ∧
      (0x60000000 : Word).toNat / 2 ^ 28 = 6 ∧ (0x7FFFFFFF : Word).toNat / 2 ^ 28 = 7 ∧
      (0x800000FF : Word).toNat / 2 ^ 28 = 8 ∧
      ((0x90000100 : Word).toNat / 2 ^ 28 = 9 ∧ (0x90000100 : Word).toNat % 256 = 0) ∧
      ((0x98000101 : Word).toNat / 2 ^ 8 % 256 ≠ 0 ∧ (0x98000101 : Word).toNat % 256 ≠ 0) ∧
      10 ≤ (0xA0000000 : Word).toNat / 2 ^ 28 := by decide
theorem witness_stepRecordsRoundTrip :
    (StepRecord.hold (.carrier .b) 0xFFFFF).legal = true ∧
      (StepRecord.tune .b 1 255).legal = true := by decide

/-! Witnesses of the invariants: the quiet part and the part after POR, each with a next state. -/

theorem witness_stepsKeepTheMemory :
    State.reset.MemoryOk ∧ ∃ t, step State.reset = .next t :=
  ⟨⟨by decide, by decide⟩, _, rfl⟩
theorem witness_stepsKeepTheQueues : deferred.QueuesOk ∧ ∃ t, step deferred = .next t :=
  ⟨⟨by decide, by decide, fun n => ⟨by cases n <;> decide, by cases n <;> decide⟩, by decide,
    by decide⟩, _, rfl⟩
theorem witness_stepsKeepTheLanes : atBarrier.LanesOk ∧ ∃ t, step atBarrier = .next t :=
  ⟨fun n => ⟨by cases n <;> decide, by cases n <;> decide, by cases n <;> decide,
    by cases n <;> exact nofun, by cases n <;> decide⟩, _, rfl⟩
theorem witness_stepsKeepTheGroups : atBarrier.GroupsOk ∧ ∃ t, step atBarrier = .next t := by
  refine ⟨⟨fun g => ⟨fun n h => ?_, by cases g <;> decide⟩, fun n => by cases n <;> decide⟩, _, rfl⟩
  cases g <;> cases n <;> first
    | exact absurd h (by decide)
    | exact ⟨by decide, .inl (by decide)⟩
    | exact ⟨by decide, .inr ⟨by decide, _, rfl, by decide, by decide⟩⟩
theorem witness_stepsKeepTheUnits : quiet.UnitsOk ∧ ∃ t, step quiet = .next t :=
  ⟨⟨⟨by decide, by decide, by decide, by decide, by decide, by decide, by decide, by decide⟩,
    fun x => ⟨by cases x <;> exact ⟨by decide, by decide⟩, by cases x <;> exact nofun,
      by cases x <;> decide, by cases x <;> decide⟩,
    fun i => ⟨by cases i <;> decide, by cases i <;> decide⟩, by decide, by decide⟩, _, rfl⟩

end Sys2Proof.Tests
end

/-! ## What a command does to the pattern memory and INIT (R1 to R5, R7) -/

section
namespace Sys2Proof.Machine

/-- What every operation leaves as it stands but the resets, INIT_CLEAR and a PMEM_DATA write: the
pattern memory, INIT, and the model's own queue and count of draws. -/
structure CoreKept (s t : State) : Prop where
  pmem : t.pmem = s.pmem
  init : t.init = s.init
  draws : t.draws = s.draws
  pending : t.pending = s.pending

theorem CoreKept.refl (s : State) : CoreKept s s := ⟨rfl, rfl, rfl, rfl⟩

theorem CoreKept.trans {s t u : State} (h : CoreKept s t) (k : CoreKept t u) : CoreKept s u :=
  ⟨k.pmem.trans h.pmem, k.init.trans h.init, k.draws.trans h.draws, k.pending.trans h.pending⟩

theorem RunKeeps.coreKept {s t : State} (h : RunKeeps s t) : CoreKept s t :=
  ⟨h.pmem, h.init, h.draws, h.pending⟩

theorem CoreKept.report (s : State) (r : Result) (i : Index) : CoreKept s (s.report r i) :=
  ⟨rfl, rfl, rfl, rfl⟩

theorem CoreKept.portError (s : State) (c : PortCause) (i : Index) :
    CoreKept s (s.portError c i) :=
  ⟨rfl, rfl, rfl, rfl⟩

theorem CoreKept.setInput (s : State) (i : LineId) (l : InputLine) : CoreKept s (s.setInput i l) :=
  ⟨rfl, rfl, rfl, rfl⟩

theorem CoreKept.lanes (s : State) (v : PerLane Lane) : CoreKept s { s with lanes := v } :=
  ⟨rfl, rfl, rfl, rfl⟩

theorem CoreKept.tb (s : State) (v : Timebase) : CoreKept s { s with tb := v } :=
  ⟨rfl, rfl, rfl, rfl⟩

/-- A data word keeps what its own effect keeps. -/
theorem CoreKept.hostWord (d : Direction) (i : Index) {f : State → State}
    (hf : ∀ s, CoreKept s (f s)) (s : State) : CoreKept s (hostWord d i f s) := by
  unfold Sys2Proof.Machine.hostWord
  split
  · exact (show CoreKept s (s.advanceFrame d i) from ⟨rfl, rfl, rfl, rfl⟩).trans (hf _)
  · exact .refl s

theorem CoreKept.unlessHeld {f : State → State} (hf : ∀ s, CoreKept s (f s)) (s : State) :
    CoreKept s (unlessHeld f s) := by
  unfold Sys2Proof.Machine.unlessHeld
  split
  · exact .refl s
  · exact hf s

/-! ### The lane and global commands -/

theorem CoreKept.submitTo (n : LaneId) (s : State) : CoreKept s (submitTo n s) := by
  unfold Sys2Proof.Machine.submitTo
  split
  · exact .report ..
  · dsimp only
    split
    · exact ((RunKeeps.setLane ..).coreKept.trans (.report ..)).trans
        ((RunKeeps.activate ..).trans (.settle ..)).coreKept
    · exact (RunKeeps.setLane ..).coreKept.trans (.report ..)

theorem CoreKept.stopAtEnd (n : LaneId) (s : State) : CoreKept s (stopAtEnd n s) := by
  unfold Sys2Proof.Machine.stopAtEnd
  dsimp only
  split
  · exact .report ..
  · exact .report ..
  · exact (RunKeeps.setLane ..).coreKept.trans (.report ..)
  · exact (RunKeeps.setLane ..).coreKept.trans (.report ..)
  · exact (((RunKeeps.depart n s).trans (.retire ..)).coreKept.trans (.report ..)).trans
      (RunKeeps.settle ..).coreKept

theorem CoreKept.spliceLane (n : LaneId) (s : State) : CoreKept s (spliceLane n s) := by
  unfold Sys2Proof.Machine.spliceLane
  dsimp only
  split
  · exact .report ..
  · exact .report ..
  · split
    · exact (RunKeeps.setLane ..).coreKept.trans (.report ..)
    · exact .report ..

theorem RunKeeps.flushPending (n : LaneId) (ds : List Descriptor) (s : State) :
    RunKeeps s (flushPending n ds s) :=
  .foldl _ (fun t _ => .postTerminal _ _ _ t) ds s

theorem CoreKept.abortLane (n : LaneId) (s : State) : CoreKept s (abortLane n s) := by
  have cleared : RunKeeps s ((depart n s).setLane n (s.lane n).aborted) :=
    (RunKeeps.depart n s).trans (.setLane ..)
  unfold Sys2Proof.Machine.abortLane
  dsimp only
  split
  · exact ((cleared.trans (.flushPending ..)).coreKept.trans (.report ..)).trans
      (RunKeeps.settle ..).coreKept
  · exact (((cleared.trans (.postTerminal ..)).trans (.flushPending ..)).coreKept.trans
      (.report ..)).trans (RunKeeps.settle ..).coreKept

theorem CoreKept.clearFaultOf (n : LaneId) (s : State) : CoreKept s (clearFaultOf n s) := by
  unfold Sys2Proof.Machine.clearFaultOf
  dsimp only
  split
  · exact ((RunKeeps.setLane ..).coreKept.trans (.report ..)).trans
      ((RunKeeps.activate ..).trans (.settle ..)).coreKept
  · exact .report ..

theorem CoreKept.laneCommand {op : LaneId → State → State} (hop : ∀ n s, CoreKept s (op n s))
    (lane : BitVec 3) (s : State) : CoreKept s (laneCommand op lane s) := by
  unfold Sys2Proof.Machine.laneCommand
  split
  · exact .report ..
  · split
    · exact .report ..
    · exact hop _ s

theorem CoreKept.globalCommand {op : State → State} (hop : ∀ s, CoreKept s (op s)) (s : State) :
    CoreKept s (globalCommand op s) := by
  unfold Sys2Proof.Machine.globalCommand
  split
  · exact .report ..
  · exact hop s

theorem CoreKept.softResetAll (s : State) : CoreKept s (softResetAll s) := ⟨rfl, rfl, rfl, rfl⟩

theorem CoreKept.useInternal (s : State) : CoreKept s (useInternal s) := by
  unfold Sys2Proof.Machine.useInternal
  dsimp only
  split <;> exact ⟨rfl, rfl, rfl, rfl⟩

theorem CoreKept.useExternal (s : State) : CoreKept s (useExternal s) := by
  unfold Sys2Proof.Machine.useExternal
  dsimp only
  split <;> exact ⟨rfl, rfl, rfl, rfl⟩

theorem CoreKept.rearm (s : State) : CoreKept s (rearm s) := by
  unfold Sys2Proof.Machine.rearm
  split <;> exact ⟨rfl, rfl, rfl, rfl⟩

theorem CoreKept.flushCapture (s : State) : CoreKept s (flushCapture s) := ⟨rfl, rfl, rfl, rfl⟩

theorem CoreKept.writeGlobalCmd (w : Word) (s : State) : CoreKept s (writeGlobalCmd w s) := by
  unfold Sys2Proof.Machine.writeGlobalCmd
  split
  · exact .report ..
  · split
    · exact .softResetAll s
    · exact .useInternal s
    · exact .useExternal s
    · exact .rearm s
    · exact .flushCapture s
    · exact .report ..

theorem CoreKept.writeLaneCmd (op : BitVec 4) (lane : BitVec 3) (s : State) :
    CoreKept s (writeLaneCmd op lane s) := by
  unfold Sys2Proof.Machine.writeLaneCmd
  split
  · exact .report ..
  · split
    · exact .laneCommand .submitTo ..
    · exact .laneCommand .stopAtEnd ..
    · exact .laneCommand .spliceLane ..
    · exact .laneCommand .abortLane ..
    · exact .laneCommand .clearFaultOf ..
    · exact .report ..

/-! ### The register writes and reads -/

theorem CoreKept.writeLaneCfg (n : LaneId) (w : Word) (s : State) :
    CoreKept s (writeLaneCfg n w s) := by
  unfold Sys2Proof.Machine.writeLaneCfg
  dsimp only
  split <;> [skip; skip; skip; split; split] <;> exact ⟨rfl, rfl, rfl, rfl⟩

theorem CoreKept.writeMembers (g : GroupId) (w : Word) (s : State) :
    CoreKept s (writeMembers g w s) := by
  unfold Sys2Proof.Machine.writeMembers
  split <;> exact ⟨rfl, rfl, rfl, rfl⟩

theorem CoreKept.writeCarCtrl (x : CarrierId) (w : Word) (s : State) :
    CoreKept s (writeCarCtrl x w s) := by
  unfold Sys2Proof.Machine.writeCarCtrl
  dsimp only
  split
  · split
    · split <;> exact ⟨rfl, rfl, rfl, rfl⟩
    · exact .report ..
  · split <;> exact ⟨rfl, rfl, rfl, rfl⟩

theorem CoreKept.writeCarWidth (x : CarrierId) (w : Word) (s : State) :
    CoreKept s (writeCarWidth x w s) := by
  unfold Sys2Proof.Machine.writeCarWidth
  dsimp only
  split <;> exact ⟨rfl, rfl, rfl, rfl⟩

theorem CoreKept.writeInCfg (i : LineId) (w : Word) (s : State) :
    CoreKept s (writeInCfg i w s) := by
  unfold Sys2Proof.Machine.writeInCfg
  dsimp only
  split <;> exact .setInput ..

theorem CoreKept.writeIntStatus (w : Word) (s : State) : CoreKept s (writeIntStatus w s) :=
  ⟨rfl, rfl, rfl, rfl⟩

theorem CoreKept.writeIntEnable (w : Word) (s : State) : CoreKept s (writeIntEnable w s) :=
  ⟨rfl, rfl, rfl, rfl⟩

theorem CoreKept.writeTrim (w : Word) (s : State) : CoreKept s (writeTrim w s) :=
  .tb ..

theorem CoreKept.writeThreshold (w : Word) (s : State) : CoreKept s (writeThreshold w s) :=
  ⟨rfl, rfl, rfl, rfl⟩

theorem CoreKept.writeDivider (d : DividerSet) (w : Word) (s : State) :
    CoreKept s (writeDivider d w s) := by
  cases d <;> exact .tb ..

theorem CoreKept.popCapture (s : State) : CoreKept s (popCapture s) := by
  unfold Sys2Proof.Machine.popCapture
  split <;> exact ⟨rfl, rfl, rfl, rfl⟩

theorem CoreKept.placeDeferred (s : State) : CoreKept s (placeDeferred s) := by
  unfold Sys2Proof.Machine.placeDeferred
  split
  · exact .refl s
  · dsimp only
    split <;> exact ⟨rfl, rfl, rfl, rfl⟩
  · split <;> exact ⟨rfl, rfl, rfl, rfl⟩

theorem CoreKept.popEvent (s : State) : CoreKept s (popEvent s) := by
  unfold Sys2Proof.Machine.popEvent
  split
  · exact .report ..
  · next rest _ =>
    have kept := CoreKept.placeDeferred { s with evq := { s.evq with placed := rest } }
    exact CoreKept.trans ⟨kept.pmem, kept.init, kept.draws, kept.pending⟩ (.report ..)

/-- A write at any register but PMEM_DATA keeps the memory and INIT. -/
theorem CoreKept.writeReg {r : Reg} (hr : r ≠ .pmemData) (w : Word) (s : State) :
    CoreKept s (writeReg r w s) := by
  cases r with
  | pmemData => exact absurd rfl hr
  | globalCmd => exact .writeGlobalCmd ..
  | laneCmd => exact .writeLaneCmd ..
  | tbDiv d => exact .writeDivider ..
  | groupMembers g => exact .writeMembers ..
  | carCtrl x => exact .writeCarCtrl ..
  | carWidth x => exact .writeCarWidth ..
  | inCfg i => exact .writeInCfg ..
  | capqPop => exact .popCapture s
  | evqPop => exact .popEvent s
  | laneCfg n => exact .writeLaneCfg ..
  | _ => exact ⟨rfl, rfl, rfl, rfl⟩

theorem CoreKept.readPmem (s : State) : CoreKept s (readPmem s) := by
  unfold Sys2Proof.Machine.readPmem
  split <;> exact ⟨rfl, rfl, rfl, rfl⟩

theorem CoreKept.readAt (i : Index) (s : State) : CoreKept s (readAt i s) := by
  unfold Sys2Proof.Machine.readAt
  split
  · exact ⟨rfl, rfl, rfl, rfl⟩
  · exact .readPmem s
  · exact ⟨rfl, rfl, rfl, rfl⟩

theorem CoreKept.cutWord (cut : Cut) (s : State) : CoreKept s (cutWord cut s) := by
  unfold Sys2Proof.Machine.cutWord
  split
  · exact .portError ..
  · exact .portError ..
  · split
    · exact (CoreKept.portError ..).trans (.portError ..)
    · split
      · exact (CoreKept.portError ..).trans (.portError ..)
      · exact .portError ..
    · exact .portError ..

/-! ### The events of the timebase, the carriers and the lines -/

theorem CoreKept.recordTimebase (st : TbState) (loss lock : Bool) (s : State) :
    CoreKept s (recordTimebase st loss lock s) := by
  rcases recordTimebase_cases st loss lock s with ⟨r, r', -, h⟩ | ⟨r, -, -, h⟩ | ⟨r, -, -, h⟩ <;>
    rw [h] <;> exact ⟨rfl, rfl, rfl, rfl⟩

theorem CoreKept.lockNow (s : State) : CoreKept s (lockNow s) :=
  (CoreKept.tb ..).trans (.recordTimebase ..)

theorem CoreKept.monitorEdge (s : State) : CoreKept s (monitorEdge s) := by
  have counted : CoreKept s (if 4096 ≤ s.tb.qual + 1 then Sys2Proof.Machine.lockNow s
      else { s with tb := { s.tb with qual := s.tb.qual + 1, window := 0 } }) := by
    split
    · exact .lockNow s
    · exact .tb ..
  unfold Sys2Proof.Machine.monitorEdge
  split
  · exact counted
  · exact counted
  · exact .tb ..
  · exact .refl s
  · exact .refl s

theorem CoreKept.tickEnds (s : State) : CoreKept s (tickEnds s) := ⟨rfl, rfl, rfl, rfl⟩

theorem CoreKept.tickEdge (s : State) : CoreKept s (tickEdge s) := by
  unfold Sys2Proof.Machine.tickEdge
  split
  · split
    · exact .tickEnds s
    · exact .tb ..
  · exact .refl s

theorem CoreKept.boundaryEdge (s : State) : CoreKept s (boundaryEdge s) := by
  unfold Sys2Proof.Machine.boundaryEdge
  split
  · exact .tb ..
  · exact .refl s

/-- The faults of a loss are lane faults: they touch what a run of lane work can touch. -/
theorem RunKeeps.faultForLoss (s : State) : RunKeeps s (faultForLoss s) := by
  unfold Sys2Proof.Machine.faultForLoss
  refine ((RunKeeps.foldl _ (fun t n => .depart n t) _ s).trans (.breakBarriers ..)).trans
    (.foldl _ (fun t n => ?_) _ _)
  split
  · exact .enterFault ..
  · split
    · exact .enterFault ..
    · exact .refl t

theorem CoreKept.detectLoss (s : State) : CoreKept s (detectLoss s) := by
  unfold Sys2Proof.Machine.detectLoss
  split
  · exact .tb ..
  · exact .tb ..
  · exact ((CoreKept.tb ..).trans (RunKeeps.faultForLoss _).coreKept).trans (.recordTimebase ..)
  · exact .refl s
  · exact .refl s

theorem CoreKept.offerCapture (r : CaptureRecord) (s : State) : CoreKept s (offerCapture r s) := by
  rcases offerCapture_cases r s with ⟨-, h⟩ | ⟨-, h⟩ <;> rw [h] <;> exact ⟨rfl, rfl, rfl, rfl⟩

theorem CoreKept.acceptEdge (i : LineId) (e : Edge) (s : State) :
    CoreKept s (acceptEdge i e s) := by
  have triggered : CoreKept s
      (if (s.input i).trigger.holds e then deliverTrigger i s else s) := by
    split
    · exact .lanes ..
    · exact .refl s
  unfold Sys2Proof.Machine.acceptEdge
  dsimp only
  split
  · exact triggered.trans (.offerCapture ..)
  · exact triggered

theorem CoreKept.takeSample (i : LineId) (s : State) : CoreKept s (takeSample i s) := by
  unfold Sys2Proof.Machine.takeSample
  dsimp only
  split
  · split
    · exact .setInput ..
    · split
      · exact (CoreKept.setInput ..).trans (.acceptEdge ..)
      · exact .setInput ..
  · split <;> exact .setInput ..

/-! ### Every command -/

/-- What a command can do to the pattern memory and INIT. -/
inductive MemoryChange (s t : State) : Prop where
  /-- Neither changes. -/
  | kept (h : CoreKept s t)
  /-- POR brings the memory up, and INIT begins (R2, R3). -/
  | poweredUp (hm : t.pmem = s.pmem.powerUp)
  /-- INIT clears the next entry, and goes on while one is left (R3). -/
  | cleared (k : Nat) (hs : s.init = some k) (hm : t.pmem = s.pmem.clearNext)
      (hi : t.init = if s.pmem.cleared + 1 < 4096 then some 224 else none)
  /-- The release of RSTN ends INIT where it stands (R5). -/
  | released (hm : t.pmem = s.pmem) (hi : t.init = none)
  /-- A word is stored, outside INIT (R7). -/
  | stored (w : Word) (hs : s.init = none) (hm : t.pmem = s.pmem.write s.ptr.addr w)
      (hi : t.init = none)

theorem writePmem_memoryChange (w : Word) (s : State) : MemoryChange s (writePmem w s) := by
  unfold writePmem
  split
  · exact .kept (.portError ..)
  · next h =>
    have hs : s.init = none := by simpa [State.initBusy] using h
    exact .stored w hs rfl hs

theorem writeAt_memoryChange (i : Index) (w : Word) (s : State) :
    MemoryChange s (writeAt i w s) := by
  unfold writeAt
  split
  · next r _ =>
    by_cases hr : r = .pmemData
    · subst hr
      exact writePmem_memoryChange w s
    · exact .kept (.writeReg hr w s)
  · exact .kept (.portError ..)

theorem hostWord_memoryChange (d : Direction) (i : Index) {f : State → State}
    (hf : ∀ s, MemoryChange s (f s)) (s : State) : MemoryChange s (hostWord d i f s) := by
  unfold hostWord
  split
  · cases hf (s.advanceFrame d i) with
    | kept h => exact .kept ⟨h.pmem, h.init, h.draws, h.pending⟩
    | poweredUp hm => exact .poweredUp hm
    | cleared k hs hm hi => exact .cleared k hs hm hi
    | released hm hi => exact .released hm hi
    | stored w hs hm hi => exact .stored w hs hm hi
  · exact .kept (.refl s)

theorem laneEvent_memoryChange {n : LaneId} {b : Prop} [Decidable b] {s t : State}
    (h : (if b then .next s else laneEvent n s) = .next t) : MemoryChange s t := by
  split at h
  · cases h
    exact .kept (.refl s)
  · exact .kept (RunKeeps.laneEvent h).coreKept

/-- A command that answers a next state does one of these things to the memory and INIT. -/
theorem exec_memoryChange {c : Instr} {s t : State} (h : exec c s = .next t) :
    MemoryChange s t := by
  cases c with
  | por => cases h; exact .poweredUp rfl
  | initClear =>
    simp only [exec, execInitClear] at h
    split at h
    · cases h
      exact .kept (.refl s)
    · next k hk => cases h; exact .cleared k hk rfl rfl
  | rstnAssert => cases h; exact .kept ⟨rfl, rfl, rfl, rfl⟩
  | rstnReset => cases h; exact .released rfl rfl
  | frameStart =>
    simp only [exec, execFrameStart] at h
    split at h <;> cases h <;> exact .kept ⟨rfl, rfl, rfl, rfl⟩
  | frameEnd => cases h; exact .kept ⟨rfl, rfl, rfl, rfl⟩
  | shortFrame cut =>
    have word : CoreKept s (if s.portListens then cutWord cut s else s) := by
      split
      · exact .cutWord cut s
      · exact .refl s
    cases h
    exact .kept ⟨word.pmem, word.init, word.draws, word.pending⟩
  | badIndex dir i w =>
    cases dir with
    | read => cases h; exact .kept (.hostWord _ _ (.readAt i) s)
    | write => cases h; exact hostWord_memoryChange _ _ (writeAt_memoryChange i w) s
  | readOnlyWrite i w => cases h; exact hostWord_memoryChange _ _ (writeAt_memoryChange i w) s
  | registerWrite i w => cases h; exact hostWord_memoryChange _ _ (writeAt_memoryChange i w) s
  | pmemDataWrite w => cases h; exact hostWord_memoryChange _ _ (writePmem_memoryChange w) s
  | pmemDataRead => cases h; exact .kept (.hostWord _ _ .readPmem s)
  | tbTrim w => cases h; exact .kept (.hostWord _ _ (.writeTrim w) s)
  | intStatus w => cases h; exact .kept (.hostWord _ _ (.writeIntStatus w) s)
  | intEnable w => cases h; exact .kept (.hostWord _ _ (.writeIntEnable w) s)
  | laneCfg n w => cases h; exact .kept (.hostWord _ _ (.writeLaneCfg n w) s)
  | groupMembers g w => cases h; exact .kept (.hostWord _ _ (.writeMembers g w) s)
  | carCtrl x w => cases h; exact .kept (.hostWord _ _ (.writeCarCtrl x w) s)
  | carWidth x w => cases h; exact .kept (.hostWord _ _ (.writeCarWidth x w) s)
  | inCfg i w => cases h; exact .kept (.hostWord _ _ (.writeInCfg i w) s)
  | capqStatus w => cases h; exact .kept (.hostWord _ _ (.writeThreshold w) s)
  | capqPop w => cases h; exact .kept (.hostWord _ _ .popCapture s)
  | evqPop w => cases h; exact .kept (.hostWord _ _ .popEvent s)
  | softReset => cases h; exact .kept (.hostWord _ _ (.globalCommand .softResetAll) s)
  | tbUseInternal => cases h; exact .kept (.hostWord _ _ (.globalCommand .useInternal) s)
  | tbUseExternal => cases h; exact .kept (.hostWord _ _ (.globalCommand .useExternal) s)
  | tbRearm => cases h; exact .kept (.hostWord _ _ (.globalCommand .rearm) s)
  | capqFlush => cases h; exact .kept (.hostWord _ _ (.globalCommand .flushCapture) s)
  | submit lane => cases h; exact .kept (.hostWord _ _ (.laneCommand .submitTo lane) s)
  | stopAtEnd lane => cases h; exact .kept (.hostWord _ _ (.laneCommand .stopAtEnd lane) s)
  | splice lane => cases h; exact .kept (.hostWord _ _ (.laneCommand .spliceLane lane) s)
  | abort lane => cases h; exact .kept (.hostWord _ _ (.laneCommand .abortLane lane) s)
  | clearFault lane => cases h; exact .kept (.hostWord _ _ (.laneCommand .clearFaultOf lane) s)
  | laneCmdBadCommand op lane => cases h; exact .kept (.hostWord _ _ (.writeLaneCmd op lane) s)
  | laneBoundary n => exact laneEvent_memoryChange h
  | holdEnd n => exact laneEvent_memoryChange h
  | timeoutExpiry n => exact laneEvent_memoryChange h
  | waitSatisfied n => exact laneEvent_memoryChange h
  | launchStart n => exact laneEvent_memoryChange h
  | spliceLanding n => exact laneEvent_memoryChange h
  | tickBoundary =>
    cases h
    exact .kept (.unlessHeld (fun t => (CoreKept.boundaryEdge t).trans (.tickEnds _)) s)
  | refinEdge =>
    cases h
    exact .kept (.unlessHeld (fun t => (CoreKept.monitorEdge t).trans (.tickEdge _)) s)
  | lock =>
    cases h
    refine .kept (.unlessHeld (fun t => ?_) s)
    split
    · exact .lockNow t
    · exact .refl t
  | lossDetected =>
    cases h
    exact .kept (.unlessHeld
      (fun t => (CoreKept.detectLoss t).trans (RunKeeps.settle t _).coreKept) s)
  | highPhaseEnd x =>
    cases h
    refine .kept (.unlessHeld (fun t => ?_) s)
    split <;> exact ⟨rfl, rfl, rfl, rfl⟩
  | periodEnd x =>
    cases h
    refine .kept (.unlessHeld (fun t => ?_) s)
    split <;> exact ⟨rfl, rfl, rfl, rfl⟩
  | inPinChange i v => cases h; exact .kept (.setInput ..)
  | sample i => cases h; exact .kept (.unlessHeld (.takeSample i) s)

/-- Each change a command can make keeps the canonical form and INIT within the memory. -/
theorem MemoryChange.memoryOk {s t : State} (h : MemoryChange s t) (hs : s.MemoryOk) :
    t.MemoryOk := by
  obtain ⟨hwf, hlt⟩ := hs
  cases h with
  | kept h => exact ⟨h.pmem ▸ hwf, fun ht => h.pmem ▸ hlt (h.init ▸ ht)⟩
  | poweredUp hm =>
    refine ⟨hm ▸ s.pmem.powerUp_wf, fun _ => ?_⟩
    rw [hm]
    exact Nat.zero_lt_succ 4095
  | cleared k hi hm hi' =>
    refine ⟨hm ▸ Pmem.clearNext_wf hwf (hlt (by simp [hi])), fun ht => ?_⟩
    rw [hi'] at ht
    rw [hm]
    split at ht
    · assumption
    · cases ht
  | released hm hi => exact ⟨hm ▸ hwf, fun ht => by simp [hi] at ht⟩
  | stored w hi hm hi' => exact ⟨hm ▸ Pmem.write_wf hwf .., fun ht => by simp [hi'] at ht⟩

/-- A step on an empty queue clears no entry, and INIT goes on exactly where it was in progress. -/
theorem clockStep_memory (s : State) :
    (clockStep s).pmem = s.pmem ∧ (clockStep s).init.isSome = s.init.isSome := by
  unfold clockStep countPeriod
  dsimp only
  split
  · split <;> exact ⟨rfl, by simp [initPasses]⟩
  · exact ⟨rfl, rfl⟩

/-- Settles O56: the command at the front of the queue makes one of the changes of `MemoryChange`,
and the clock makes none. -/
theorem stepsKeepTheMemory : Obligations.StepsKeepTheMemory := by
  intro s t hs h
  unfold step at h
  split at h
  · exact (exec_memoryChange h).memoryOk hs
  · cases h
    obtain ⟨hm, hi⟩ := clockStep_memory s
    exact ⟨hm ▸ hs.1, fun ht => hm ▸ hs.2 (hi ▸ ht)⟩

end Sys2Proof.Machine
end

/-! ## One step on an empty queue (logs 2 and 3; R3, R22 to R25, R32, R36, R46, R99, R102, R127) -/

section
namespace Sys2Proof.Machine

theorem step_of_empty {s : State} (h : s.pending = []) : step s = .next (clockStep s) := by
  simp [step, h]

/-! ### The events due -/

@[simp] theorem mem_dueIf {b : Bool} {c i : Instr} : c ∈ dueIf b i ↔ b = true ∧ c = i := by
  cases b <;> simp [dueIf]

theorem dueIf_sublist (b : Bool) (i : Instr) : (dueIf b i).Sublist [i] := by
  cases b <;> simp [dueIf]

theorem flatMap_dueIf {α : Type} (p : α → Bool) (f : α → Instr) (l : List α) :
    (l.flatMap fun a => dueIf (p a) (f a)) = (l.filter p).map f := by
  induction l with
  | nil => rfl
  | cons a rest ih => cases h : p a <;> simp [ih, h] <;> simp [dueIf]

@[simp] theorem LineId.mem_all (i : LineId) : i ∈ LineId.all := by
  cases i <;> decide

theorem LaneId.nodup_all : LaneId.all.Nodup := by decide

/-- The lanes' own events are sent while RSTN is high, to each lane that has a boundary to take. -/
theorem mem_lanesDue {s : State} (h : s.port.rstnLow = false) (c : Instr) :
    c ∈ lanesDue s ↔ ∃ n, c = .laneBoundary n ∧ (s.lane n).ownDue = true := by
  simp [lanesDue, h, and_comm]

theorem lanesDue_nodup (s : State) : (lanesDue s).Nodup := by
  unfold lanesDue
  split
  · exact List.nodup_nil
  · rw [flatMap_dueIf]
    exact (LaneId.nodup_all.filter _).map fun _ _ h => Instr.laneBoundary.inj h

@[simp] theorem lanesDue_of_low {s : State} (h : s.port.rstnLow = true) : lanesDue s = [] := by
  simp [lanesDue, h]

theorem lanesDue_eq_nil {s : State} (h : ∀ n, (s.lane n).ownDue = false) : lanesDue s = [] := by
  simp [lanesDue, h, dueIf]

/-- No event falls due twice in a period: the events due are some of nine different ones. -/
theorem dueNow_nodup (s : State) : (dueNow s).Nodup := by
  have low : (dueIf (initDue s.init) .initClear).Nodup :=
    (dueIf_sublist _ _).nodup (List.nodup_singleton _)
  unfold dueNow
  split
  · simpa using low
  · have samples : (LineId.all.flatMap fun i => dueIf (s.input i).sampleDue (.sample i)).Sublist
        (LineId.all.map .sample) := by
      rw [flatMap_dueIf]
      exact List.filter_sublist.map _
    have all : ([Instr.initClear] ++ ([Instr.tickBoundary] ++ [Instr.lossDetected]
        ++ [(s.carrier .a).phaseEvent .a] ++ [(s.carrier .b).phaseEvent .b]
        ++ LineId.all.map Instr.sample)).Nodup := by
      unfold Carrier.phaseEvent
      cases (s.carrier .a).phase <;> cases (s.carrier .b).phase <;> decide
    exact all.sublist ((dueIf_sublist ..).append (((((dueIf_sublist ..).append
      (dueIf_sublist ..)).append (dueIf_sublist ..)).append (dueIf_sublist ..)).append samples))

/-- The events due at a period while RSTN is high. -/
theorem mem_dueNow {s : State} (h : s.port.rstnLow = false) (c : Instr) :
    c ∈ dueNow s ↔ (c = .initClear ∧ initDue s.init = true) ∨
      (c = .tickBoundary ∧ s.tb.tickDue = true) ∨ (c = .lossDetected ∧ s.tb.lossDue = true) ∨
      (∃ x, c = (s.carrier x).phaseEvent x ∧ (s.carrier x).phaseDue = true) ∨
      ∃ i, c = .sample i ∧ (s.input i).sampleDue = true := by
  have two (p : CarrierId → Prop) : (∃ x, p x) ↔ p .a ∨ p .b :=
    ⟨fun ⟨x, hx⟩ => by cases x <;> simp [hx], fun h => h.elim (⟨_, ·⟩) (⟨_, ·⟩)⟩
  simp only [dueNow, h, two]
  simp [and_comm, or_assoc]

/-- While RSTN is low only INIT has an event (R5). -/
theorem mem_dueNow_of_low {s : State} (h : s.port.rstnLow = true) (c : Instr) :
    c ∈ dueNow s ↔ c = .initClear ∧ initDue s.init = true := by
  simp [dueNow, h, and_comm]

theorem initDue_iff (i : Option Nat) : initDue i = true ↔ ∃ k, i = some k ∧ 224 ≤ k := by
  cases i <;> simp [initDue]

theorem Timebase.tickDue_iff (t : Timebase) :
    t.tickDue = true ↔ t.tick.source = .iosc ∧ t.tick.div.total ≤ t.tick.count + 1 := by
  simp [Timebase.tickDue]

theorem Timebase.lossDue_iff (t : Timebase) :
    t.lossDue = true ↔ t.state.monitored = true ∧ 256 ≤ t.window + 1 := by
  simp [Timebase.lossDue]

theorem Carrier.phaseDue_iff (c : Carrier) :
    c.phaseDue = true ↔ c.enable = true ∧ c.p ≤ c.sub + 1 ∧ c.width ≤ c.count + 1 := by
  simp [Carrier.phaseDue, and_assoc]

theorem InputLine.sampleDue_iff (l : InputLine) :
    l.sampleDue = true ↔ 2 ^ l.divider.toNat ≤ l.sampleCount + 1 := by
  simp [InputLine.sampleDue]

theorem Carrier.highPhaseEnd_eq_phaseEvent (c : Carrier) (x y : CarrierId) :
    Instr.highPhaseEnd x = c.phaseEvent y ↔ y = x ∧ c.phase = .high := by
  cases h : c.phase <;> simp [Carrier.phaseEvent, h, eq_comm]

theorem Carrier.periodEnd_eq_phaseEvent (c : Carrier) (x y : CarrierId) :
    Instr.periodEnd x = c.phaseEvent y ↔ y = x ∧ c.phase = .low := by
  cases h : c.phase <;> simp [Carrier.phaseEvent, h, eq_comm]

theorem Carrier.phaseEvent_cases (c : Carrier) (x : CarrierId) :
    c.phaseEvent x = .highPhaseEnd x ∨ c.phaseEvent x = .periodEnd x := by
  cases h : c.phase <;> simp [Carrier.phaseEvent, h]

/-- A due event that is no phase event of a carrier stands by its own condition. -/
theorem ne_phaseEvent {c : Instr} (hh : ∀ x, c ≠ .highPhaseEnd x) (hp : ∀ x, c ≠ .periodEnd x)
    (d : Carrier) (x : CarrierId) : c ≠ d.phaseEvent x := by
  rcases d.phaseEvent_cases x with h | h <;> rw [h]
  · exact hh x
  · exact hp x

theorem laneBoundary_not_mem_dueNow (s : State) (n : LaneId) : .laneBoundary n ∉ dueNow s := by
  cases h : s.port.rstnLow with
  | true => simp [mem_dueNow_of_low h]
  | false => simp [mem_dueNow h, ne_phaseEvent]

theorem tickBoundary_mem_dueNow {s : State} (h : s.port.rstnLow = false) :
    .tickBoundary ∈ dueNow s ↔ s.tb.tickDue = true := by
  simp [mem_dueNow h, ne_phaseEvent]

theorem lossDetected_mem_dueNow {s : State} (h : s.port.rstnLow = false) :
    .lossDetected ∈ dueNow s ↔ s.tb.lossDue = true := by
  simp [mem_dueNow h, ne_phaseEvent]

theorem initClear_mem_dueNow (s : State) : .initClear ∈ dueNow s ↔ initDue s.init = true := by
  cases h : s.port.rstnLow with
  | true => simp [mem_dueNow_of_low h]
  | false => simp [mem_dueNow h, ne_phaseEvent]

theorem highPhaseEnd_mem_dueNow {s : State} (h : s.port.rstnLow = false) (x : CarrierId) :
    .highPhaseEnd x ∈ dueNow s ↔
      (s.carrier x).phase = .high ∧ (s.carrier x).phaseDue = true := by
  simp [mem_dueNow h, Carrier.highPhaseEnd_eq_phaseEvent, and_assoc]

theorem periodEnd_mem_dueNow {s : State} (h : s.port.rstnLow = false) (x : CarrierId) :
    .periodEnd x ∈ dueNow s ↔ (s.carrier x).phase = .low ∧ (s.carrier x).phaseDue = true := by
  simp [mem_dueNow h, Carrier.periodEnd_eq_phaseEvent, and_assoc]

theorem sample_mem_dueNow {s : State} (h : s.port.rstnLow = false) (i : LineId) :
    .sample i ∈ dueNow s ↔ (s.input i).sampleDue = true := by
  simp [mem_dueNow h, ne_phaseEvent]

/-- The events that can fall due, by name. -/
theorem dueNow_kinds {s : State} (h : s.port.rstnLow = false) {c : Instr} (hc : c ∈ dueNow s) :
    c = .initClear ∨ c = .tickBoundary ∨ c = .lossDetected ∨ (∃ n, c = .laneBoundary n) ∨
      (∃ x, c = .highPhaseEnd x) ∨ (∃ x, c = .periodEnd x) ∨ ∃ i, c = .sample i := by
  rcases (mem_dueNow h c).mp hc with ⟨rfl, -⟩ | ⟨rfl, -⟩ | ⟨rfl, -⟩ | ⟨x, rfl, -⟩ | ⟨i, rfl, -⟩
  · simp
  · simp
  · simp
  · rcases (s.carrier x).phaseEvent_cases x with hx | hx <;> simp [hx]
  · simp

/-! ### Their order -/

/-- A list with a tick boundary is what stands before its first and what stands behind it. -/
theorem eq_beforeTick_append_afterTick {l : List Instr} (h : .tickBoundary ∈ l) :
    l = beforeTick l ++ .tickBoundary :: afterTick l := by
  induction l with
  | nil => cases h
  | cons c rest ih =>
    by_cases hc : c = .tickBoundary
    · simp [beforeTick, afterTick, hc]
    · have hrest : .tickBoundary ∈ rest := by simpa [Ne.symm hc] using h
      simpa [beforeTick, afterTick, hc] using ih hrest

/-- The events of a period, as they are queued: those due, in any order; or, with a boundary among
them, the boundary dropped behind a loss in EXTERNAL, or the lanes' own events added behind it. -/
theorem orderDue_cases (s : State) :
    (.tickBoundary ∉ dueNow s ∧ (orderDue s).Perm (dueNow s)) ∨
    ∃ before after, (dueNow s).Perm (before ++ .tickBoundary :: after) ∧
      ((.lossDetected ∈ before ∧ s.tb.state = .external ∧ orderDue s = before ++ after) ∨
        (¬(.lossDetected ∈ before ∧ s.tb.state = .external) ∧
          ∃ rest, rest.Perm (after ++ laneEvents) ∧
            orderDue s = before ++ .tickBoundary :: rest)) := by
  have perm := ranked_perm s.draws (dueNow s)
  unfold orderDue
  dsimp only
  split
  · next ht =>
    refine .inr ⟨_, _, eq_beforeTick_append_afterTick ht ▸ perm.symm, ?_⟩
    split
    · next hl => exact .inl ⟨hl.1, hl.2, rfl⟩
    · next hl => exact .inr ⟨hl, _, ranked_perm .., rfl⟩
  · next ht => exact .inl ⟨fun h => ht (perm.mem_iff.mpr h), perm⟩

theorem mem_laneEvents (c : Instr) : c ∈ laneEvents ↔ ∃ n, c = .laneBoundary n := by
  simp [laneEvents, eq_comm]

theorem laneEvents_nodup : laneEvents.Nodup := by decide

/-- Every event but a boundary and the lanes' own is queued exactly when it is due. -/
theorem mem_orderDue {s : State} {c : Instr} (hc : c ≠ .tickBoundary)
    (hn : ∀ n, c ≠ .laneBoundary n) : c ∈ orderDue s ↔ c ∈ dueNow s := by
  have hl : c ∉ laneEvents := by simp [mem_laneEvents, hn]
  rcases orderDue_cases s with ⟨-, h⟩ | ⟨b, a, h, ⟨-, -, ho⟩ | ⟨-, rest, hr, ho⟩⟩
  · exact h.mem_iff
  · simp [ho, h.mem_iff, hc]
  · simp [ho, h.mem_iff, hc, hr.mem_iff, hl]

/-- What is queued is a lane's own event or is due. -/
theorem of_mem_orderDue {s : State} {c : Instr} (h : c ∈ orderDue s) :
    c ∈ dueNow s ∨ ∃ n, c = .laneBoundary n := by
  rcases orderDue_cases s with ⟨-, hp⟩ | ⟨b, a, hp, ⟨-, -, ho⟩ | ⟨-, rest, hr, ho⟩⟩
  · exact .inl (hp.mem_iff.mp h)
  · rw [ho] at h
    exact .inl (hp.mem_iff.mpr (by simp at h ⊢; tauto))
  · rw [ho] at h
    simp only [List.mem_append, List.mem_cons, hr.mem_iff, mem_laneEvents] at h
    rw [hp.mem_iff, List.mem_append, List.mem_cons]
    tauto

/-- A boundary due is queued unless a loss taken in EXTERNAL comes first (R35). -/
theorem tickBoundary_mem_orderDue {s : State} (h : .tickBoundary ∈ dueNow s)
    (hl : ¬(s.tb.state = .external ∧ .lossDetected ∈ dueNow s)) : .tickBoundary ∈ orderDue s := by
  rcases orderDue_cases s with ⟨hn, -⟩ | ⟨b, a, hp, ⟨hlost, hx, -⟩ | ⟨-, rest, hr, ho⟩⟩
  · exact absurd h hn
  · exact absurd ⟨hx, hp.mem_iff.mpr (List.mem_append_left _ hlost)⟩ hl
  · simp [ho]

theorem orderDue_nodup (s : State) : (orderDue s).Nodup := by
  have hd := dueNow_nodup s
  rcases orderDue_cases s with ⟨-, hp⟩ | ⟨b, a, hp, ⟨-, -, ho⟩ | ⟨-, rest, hr, ho⟩⟩
  · exact hp.nodup_iff.mpr hd
  · rw [ho]
    exact (hp.nodup_iff.mp hd).sublist ((List.Sublist.refl b).append (List.sublist_cons_self _ a))
  · have lanes : (b ++ .tickBoundary :: rest).Perm (dueNow s ++ laneEvents) := by
      simpa using ((hr.cons _).append_left b).trans
        (by simpa using (hp.append_right laneEvents).symm)
    rw [ho, lanes.nodup_iff, List.nodup_append']
    refine ⟨hd, laneEvents_nodup, fun c hc hl => ?_⟩
    obtain ⟨n, rfl⟩ := (mem_laneEvents c).mp hl
    exact laneBoundary_not_mem_dueNow s n hc

/-- The lanes' own events are queued exactly with a boundary (R25). -/
theorem laneBoundary_mem_orderDue (s : State) (n : LaneId) :
    .laneBoundary n ∈ orderDue s ↔ .tickBoundary ∈ orderDue s := by
  have hn := laneBoundary_not_mem_dueNow s n
  rcases orderDue_cases s with ⟨ht, hp⟩ | ⟨b, a, hp, ⟨-, -, ho⟩ | ⟨-, rest, hr, ho⟩⟩
  · simp [hp.mem_iff, ht, hn]
  · have once := hp.nodup_iff.mp (dueNow_nodup s)
    have ht : .tickBoundary ∉ b ++ a := (List.nodup_middle.mp once).notMem
    have hl : .laneBoundary n ∉ b ++ a := fun h => hn (hp.mem_iff.mpr (by simp at h ⊢; tauto))
    simp [ho, ht, hl]
  · simp [ho, hr.mem_iff, mem_laneEvents]

/-- An element behind the first part of a list stands behind what follows that part. -/
theorem mem_of_append_cons_eq {α : Type} {x y : α} {b r p q : List α}
    (h : b ++ x :: r = p ++ y :: q) (hy : y ∉ b) (hxy : y ≠ x) : x ∈ p := by
  induction b generalizing p with
  | nil =>
    cases p with
    | nil => exact absurd (List.cons.inj h).1.symm hxy
    | cons z p => simp [(List.cons.inj h).1]
  | cons z b ih =>
    cases p with
    | nil => exact absurd (by simp [(List.cons.inj h).1]) hy
    | cons w p =>
      exact List.mem_cons_of_mem _ (ih (List.cons.inj h).2 fun hb => hy (List.mem_cons_of_mem _ hb))

/-- A lane's own event is queued behind the boundary handed to it (R25). -/
theorem tickBoundary_before_laneBoundary {s : State} {n : LaneId} {before after : List Instr}
    (h : orderDue s = before ++ .laneBoundary n :: after) : .tickBoundary ∈ before := by
  have hn := laneBoundary_not_mem_dueNow s n
  have hmem : .laneBoundary n ∈ orderDue s := by simp [h]
  rcases orderDue_cases s with ⟨-, hp⟩ | ⟨b, a, hp, ⟨-, -, ho⟩ | ⟨-, rest, hr, ho⟩⟩
  · exact absurd (hp.mem_iff.mp hmem) hn
  · rw [ho] at hmem
    exact absurd (hp.mem_iff.mpr (by simp at hmem ⊢; tauto)) hn
  · refine mem_of_append_cons_eq (ho.symm.trans h) (fun hb => ?_) (by simp)
    exact hn (hp.mem_iff.mpr (List.mem_append_left _ hb))

/-! ### The counts of one period -/

/-- The TBU counts the period in a tick from IOSC and in the window timer, each where its event is
not due (R23, R32). -/
theorem Timebase.periodPasses_eq (t : Timebase) :
    t.periodPasses =
      { t with
        tick := { t.tick with
          count := if t.tick.source = .iosc ∧ t.tick.count + 1 < t.tick.div.total
            then t.tick.count + 1 else t.tick.count }
        window := if t.state.monitored = true ∧ t.window + 1 < 256
          then t.window + 1 else t.window } := by
  have hc : t.tick.source = .iosc ∧ t.tickDue = false ↔
      t.tick.source = .iosc ∧ t.tick.count + 1 < t.tick.div.total := by
    simp only [Timebase.tickDue, and_congr_right_iff]
    intro h
    simp [h]
  have hw : t.state.monitored = true ∧ t.lossDue = false ↔
      t.state.monitored = true ∧ t.window + 1 < 256 := by
    simp only [Timebase.lossDue, and_congr_right_iff]
    intro h
    rw [h, Bool.true_and, decide_eq_false_iff_not, Nat.not_le]
  simp only [Timebase.periodPasses, hc, hw]
  split <;> rfl

/-- A generator that stands still, or whose phase ends with the period, counts nothing (R99). -/
theorem Carrier.tick_still {c : Carrier} (h : c.enable = false ∨ c.phaseDue = true) :
    c.tick = c := by
  simp [Carrier.tick, h]

/-- A period within a carrier clock. -/
theorem Carrier.tick_within {c : Carrier} (he : c.enable = true) (h : c.sub + 1 < c.p) :
    c.tick = { c with sub := c.sub + 1 } := by
  simp [Carrier.tick, Carrier.phaseDue, he, Nat.not_le.mpr h]

/-- The last period of a carrier clock within a phase. -/
theorem Carrier.tick_clock {c : Carrier} (he : c.enable = true) (h : c.p ≤ c.sub + 1)
    (hw : c.count + 1 < c.width) : c.tick = { c with sub := 0, count := c.count + 1 } := by
  simp [Carrier.tick, Carrier.phaseDue, he, h, Nat.not_le.mpr hw]

theorem InputLine.tick_eq (l : InputLine) :
    l.tick =
      { l with
        sampleCount := if l.sampleCount + 1 < 2 ^ l.divider.toNat
          then l.sampleCount + 1 else l.sampleCount } := by
  by_cases h : l.sampleCount + 1 < 2 ^ l.divider.toNat
  · simp [InputLine.tick, InputLine.sampleDue, h, Nat.not_le.mpr h]
  · simp [InputLine.tick, InputLine.sampleDue, h, Nat.not_lt.mp h]

/-! ### The statement, by the three cases of a step on an empty queue -/

/-- Lanes that have not taken a boundary are sent their own events, each once. -/
theorem clockStep_of_ownDue {s : State} (hr : s.port.rstnLow = false)
    (h : ∃ n, (s.lane n).ownDue = true) :
    clockStep s = { s with draws := s.draws + 1, pending := ranked s.draws (lanesDue s) } := by
  obtain ⟨n, hn⟩ := h
  have hne : lanesDue s ≠ [] := List.ne_nil_of_mem ((mem_lanesDue hr _).mpr ⟨n, rfl, hn⟩)
  simp [clockStep, hne]

/-- With no lane behind and RSTN high one whole period passes. -/
theorem clockStep_of_period {s : State} (hr : s.port.rstnLow = false)
    (h : ∀ n, (s.lane n).ownDue = false) :
    clockStep s =
      { s with
        init := initPasses s.init, tb := s.tb.periodPasses
        carriers := PerCarrier.build fun x => (s.carrier x).tick
        inputs := PerLine.build fun i => (s.input i).tick
        draws := s.draws + 1, pending := orderDue s } := by
  simp [clockStep, lanesDue_eq_nil h, countPeriod, hr]

/-- While RSTN is low only INIT counts the period. -/
theorem clockStep_of_low {s : State} (hr : s.port.rstnLow = true) :
    clockStep s =
      { s with init := initPasses s.init, draws := s.draws + 1, pending := orderDue s } := by
  simp [clockStep, countPeriod, hr]

/-- Settles O3: the order in which due events are queued keeps the events due, and adds the lanes'
own behind a boundary. -/
theorem clockStepOnEmptyQueue : Obligations.ClockStepOnEmptyQueue := by
  refine ⟨fun s hp hr hn => ?_, fun s hp hr hn => ?_, fun s hp hr => ?_⟩
  · have perm := ranked_perm s.draws (lanesDue s)
    refine ⟨_, by rw [step_of_empty hp, clockStep_of_ownDue hr hn],
      perm.nodup_iff.mpr (lanesDue_nodup s), fun c => ?_⟩
    rw [perm.mem_iff, mem_lanesDue hr]
  · intro tickEnds lost width phaseEnds
    have hphase (x : CarrierId) : (s.carrier x).phaseDue = true ↔ phaseEnds x :=
      (s.carrier x).phaseDue_iff
    refine ⟨_, step_of_empty hp, ?_⟩
    rw [clockStep_of_period hr hn, Timebase.periodPasses_eq]
    refine ⟨rfl, rfl, rfl, fun x => ⟨fun h => ?_, fun he h => ?_, fun he h hw => ?_⟩, fun i => ?_,
      orderDue_nodup s, ?_, fun h => ?_, fun h hl => ?_, ?_, laneBoundary_mem_orderDue s,
      fun n before after => tickBoundary_before_laneBoundary, fun x => ?_, fun x => ?_, fun i => ?_,
      fun c hc => ?_⟩
    · rw [← hphase] at h
      exact (PerCarrier.get_build _ x).trans (Carrier.tick_still h)
    · exact (PerCarrier.get_build _ x).trans (Carrier.tick_within he h)
    · exact (PerCarrier.get_build _ x).trans (Carrier.tick_clock he h hw)
    · exact (PerLine.get_build _ i).trans (InputLine.tick_eq _)
    · simp [mem_orderDue, initClear_mem_dueNow, initDue_iff]
    · have due := (of_mem_orderDue h).resolve_right (by simp)
      rwa [tickBoundary_mem_dueNow hr, Timebase.tickDue_iff] at due
    · refine tickBoundary_mem_orderDue ?_ ?_
      · rwa [tickBoundary_mem_dueNow hr, Timebase.tickDue_iff]
      · rwa [lossDetected_mem_dueNow hr, Timebase.lossDue_iff]
    · simp only [ne_eq, reduceCtorEq, not_false_eq_true, implies_true, mem_orderDue]
      rw [lossDetected_mem_dueNow hr, Timebase.lossDue_iff]
    · rw [mem_orderDue (by simp) (by simp), highPhaseEnd_mem_dueNow hr, hphase]
    · rw [mem_orderDue (by simp) (by simp), periodEnd_mem_dueNow hr, hphase]
    · rw [mem_orderDue (by simp) (by simp), sample_mem_dueNow hr, InputLine.sampleDue_iff]
    · rcases of_mem_orderDue hc with hc | hc
      · exact dueNow_kinds hr hc
      · exact .inr (.inr (.inr (.inl hc)))
  · have none (n : LaneId) : .laneBoundary n ∉ orderDue s := by
      rw [laneBoundary_mem_orderDue]
      intro h
      rcases of_mem_orderDue h with h | h <;> simp [mem_dueNow_of_low hr] at h
    refine ⟨_, by rw [step_of_empty hp, clockStep_of_low hr]; rfl, orderDue_nodup s, fun c => ?_⟩
    constructor
    · intro hc
      rcases of_mem_orderDue hc with hc | ⟨n, rfl⟩
      · rwa [mem_dueNow_of_low hr, initDue_iff] at hc
      · exact absurd hc (none n)
    · rintro ⟨rfl, h⟩
      simpa [mem_orderDue, initClear_mem_dueNow, initDue_iff] using h

end Sys2Proof.Machine
end

/-! ## Step records as words (R11 to R16, R177) -/

section
namespace Sys2Proof

@[simp] theorem decodeLevel_levelCode (l : StepLevel) : decodeLevel (levelCode l) = l := by
  rcases l with _ | _ | (_ | _) <;> decide

@[simp] theorem decodeSource_sourceCode (src : WaitSource) :
    decodeSource (sourceCode src) = some src := by
  rcases src with (_ | _ | _ | _) | (_ | _) <;> decide

/-! ### Decoding, an equation for each kind with fields -/

theorem decodeStep_of_hold {w : Word} (h : w.extractLsb' 28 4 = 1) :
    decodeStep w =
      if w.extractLsb' 0 20 = 0 then none
      else some (.hold (decodeLevel (w.extractLsb' 26 2)) (w.extractLsb' 0 20)) := by
  simp only [decodeStep, h]
  rfl

theorem decodeStep_of_wait {w : Word} (h : w.extractLsb' 28 4 = 2) :
    decodeStep w = (decodeSource (w.extractLsb' 24 4)).map fun src =>
      .wait src (decodeLevel (w.extractLsb' 22 2)) (w.getLsbD 21) (w.extractLsb' 0 16) := by
  simp only [decodeStep, h]
  rfl

theorem decodeStep_of_loop {w : Word} (h : w.extractLsb' 28 4 = 3) :
    decodeStep w =
      if w.extractLsb' 0 12 = 0 then none else some (.loop (w.extractLsb' 0 12)) := by
  simp only [decodeStep, h]
  rfl

theorem decodeStep_of_sub {w : Word} (h : w.extractLsb' 28 4 = 5) :
    decodeStep w = some (.sub (w.extractLsb' 0 12)) := by
  simp only [decodeStep, h]
  rfl

theorem decodeStep_of_link {w : Word} (h : w.extractLsb' 28 4 = 7) :
    decodeStep w = some (.link (w.extractLsb' 0 12)) := by
  simp only [decodeStep, h]
  rfl

theorem decodeStep_of_signal {w : Word} (h : w.extractLsb' 28 4 = 8) :
    decodeStep w = some (.signal (w.extractLsb' 0 8)) := by
  simp only [decodeStep, h]
  rfl

theorem decodeStep_of_tune {w : Word} (h : w.extractLsb' 28 4 = 9) :
    decodeStep w =
      if w.extractLsb' 8 8 = 0 ∨ w.extractLsb' 0 8 = 0 then none
      else some (.tune (if w.getLsbD 27 then .b else .a) (w.extractLsb' 8 8)
        (w.extractLsb' 0 8)) := by
  simp only [decodeStep, h]
  rfl

/-! ### The fields of a record's own word -/

/-- The kind of a step record (R177). -/
def StepRecord.kindCode : StepRecord → BitVec 4
  | .endPass => 0 | .hold .. => 1 | .wait .. => 2 | .loop _ => 3 | .next => 4 | .sub _ => 5
  | .back => 6 | .link _ => 7 | .signal _ => 8 | .tune .. => 9

theorem encodeStep_kind (r : StepRecord) : (encodeStep r).extractLsb' 28 4 = r.kindCode := by
  cases r with
  | endPass | next | back => decide
  | hold | wait | loop | sub | link | signal | tune =>
    simp only [encodeStep]
    repeat rw [BitVec.extractLsb'_append_eq_of_le (by decide)]
    exact BitVec.extractLsb'_eq_self

theorem encodeStep_hold_level (l : StepLevel) (d : BitVec 20) :
    (encodeStep (.hold l d)).extractLsb' 26 2 = levelCode l := by
  simp only [encodeStep]
  rw [BitVec.extractLsb'_append_eq_of_le (by decide),
    BitVec.extractLsb'_append_eq_of_le (by decide), BitVec.extractLsb'_append_eq_right]

theorem encodeStep_hold_duration (l : StepLevel) (d : BitVec 20) :
    (encodeStep (.hold l d)).extractLsb' 0 20 = d :=
  BitVec.extractLsb'_append_eq_right

theorem encodeStep_wait_source (src : WaitSource) (l : StepLevel) (strict : Bool)
    (t : BitVec 16) : (encodeStep (.wait src l strict t)).extractLsb' 24 4 = sourceCode src := by
  simp only [encodeStep]
  rw [BitVec.extractLsb'_append_eq_of_le (by decide),
    BitVec.extractLsb'_append_eq_of_le (by decide),
    BitVec.extractLsb'_append_eq_of_le (by decide),
    BitVec.extractLsb'_append_eq_of_le (by decide), BitVec.extractLsb'_append_eq_right]

theorem encodeStep_wait_level (src : WaitSource) (l : StepLevel) (strict : Bool)
    (t : BitVec 16) : (encodeStep (.wait src l strict t)).extractLsb' 22 2 = levelCode l := by
  simp only [encodeStep]
  rw [BitVec.extractLsb'_append_eq_of_le (by decide),
    BitVec.extractLsb'_append_eq_of_le (by decide),
    BitVec.extractLsb'_append_eq_of_le (by decide), BitVec.extractLsb'_append_eq_right]

theorem encodeStep_wait_strict (src : WaitSource) (l : StepLevel) (strict : Bool)
    (t : BitVec 16) : (encodeStep (.wait src l strict t)).getLsbD 21 = strict := by
  simp only [encodeStep]
  rw [BitVec.getLsbD_append, if_neg (by decide), BitVec.getLsbD_append, if_neg (by decide),
    BitVec.getLsbD_append, if_pos (by decide)]
  cases strict <;> rfl

theorem encodeStep_wait_timeout (src : WaitSource) (l : StepLevel) (strict : Bool)
    (t : BitVec 16) : (encodeStep (.wait src l strict t)).extractLsb' 0 16 = t :=
  BitVec.extractLsb'_append_eq_right

theorem encodeStep_loop_count (c : BitVec 12) : (encodeStep (.loop c)).extractLsb' 0 12 = c :=
  BitVec.extractLsb'_append_eq_right

theorem encodeStep_sub_target (a : Addr) : (encodeStep (.sub a)).extractLsb' 0 12 = a :=
  BitVec.extractLsb'_append_eq_right

theorem encodeStep_link_target (a : Addr) : (encodeStep (.link a)).extractLsb' 0 12 = a :=
  BitVec.extractLsb'_append_eq_right

theorem encodeStep_signal_tag (v : Tag) : (encodeStep (.signal v)).extractLsb' 0 8 = v :=
  BitVec.extractLsb'_append_eq_right

theorem encodeStep_tune_carrier (x : CarrierId) (h l : BitVec 8) :
    (encodeStep (.tune x h l)).getLsbD 27 = decide (x = .b) := by
  simp only [encodeStep]
  rw [BitVec.getLsbD_append, if_neg (by decide), BitVec.getLsbD_append, if_neg (by decide),
    BitVec.getLsbD_append, if_neg (by decide), BitVec.getLsbD_append, if_pos (by decide)]
  cases x <;> rfl

theorem encodeStep_tune_high (x : CarrierId) (h l : BitVec 8) :
    (encodeStep (.tune x h l)).extractLsb' 8 8 = h := by
  simp only [encodeStep]
  rw [BitVec.extractLsb'_append_eq_of_le (by decide), BitVec.extractLsb'_append_eq_right]

theorem encodeStep_tune_low (x : CarrierId) (h l : BitVec 8) :
    (encodeStep (.tune x h l)).extractLsb' 0 8 = l :=
  BitVec.extractLsb'_append_eq_right

/-- Settles O54: by the kinds of record, each field of a record's own word is the field it was made
from, and the fields a legal record holds are none the decoder refuses. -/
theorem stepRecordsRoundTrip : Obligations.StepRecordsRoundTrip := by
  intro r hr
  have kind := encodeStep_kind r
  cases r with
  | endPass | next | back => decide
  | hold l d =>
    have hd : d ≠ 0 := of_decide_eq_true hr
    rw [decodeStep_of_hold kind, encodeStep_hold_duration, encodeStep_hold_level, if_neg hd,
      decodeLevel_levelCode]
  | wait src l strict t =>
    rw [decodeStep_of_wait kind, encodeStep_wait_source, encodeStep_wait_level,
      encodeStep_wait_strict, encodeStep_wait_timeout, decodeSource_sourceCode,
      decodeLevel_levelCode, Option.map_some]
  | loop c =>
    have hc : c ≠ 0 := of_decide_eq_true hr
    rw [decodeStep_of_loop kind, encodeStep_loop_count, if_neg hc]
  | sub a => rw [decodeStep_of_sub kind, encodeStep_sub_target]
  | link a => rw [decodeStep_of_link kind, encodeStep_link_target]
  | signal v => rw [decodeStep_of_signal kind, encodeStep_signal_tag]
  | tune x h l =>
    have hw : h ≠ 0 ∧ l ≠ 0 := of_decide_eq_true hr
    rw [decodeStep_of_tune kind, encodeStep_tune_high, encodeStep_tune_low,
      encodeStep_tune_carrier, if_neg (not_or.mpr hw)]
    cases x <;> rfl

end Sys2Proof
end

/-! ## An illegal record and a spent zero-run budget (R18, R51, R66, R67, R121) -/

section
namespace Sys2Proof.Machine

/-- A step begun at an illegal record faults with BAD_STEP (R18, R49 item 1). -/
theorem doWork_illegal {n : LaneId} {a : Addr} {s : State}
    (h : decodeStep (s.fetchWord n a) = none) :
    doWork (.step n a) s =
      (faultLane .badStep n (s.setLane n ((s.lane n).beginStep a)), []) := by
  simp [doWork, takeStep, h]

/-- A record that is neither a HOLD nor a WAIT is a zero-duration step of every lane (R51). -/
theorem zeroDuration_of_ne (s : State) (n : LaneId) {r : StepRecord}
    (hh : ∀ level d, r ≠ .hold level d) (hw : ∀ src level strict t, r ≠ .wait src level strict t) :
    zeroDuration s n r = true := by
  cases r with
  | hold level d => exact absurd rfl (hh level d)
  | wait src level strict t => exact absurd rfl (hw src level strict t)
  | _ => rfl

/-- A zero-duration step begun with the zero-run count at 16 faults with RUNAWAY (R51). -/
theorem doWork_runaway {n : LaneId} {a : Addr} {s : State} {r : StepRecord}
    (h : decodeStep (s.fetchWord n a) = some r) (hp : (s.lane n).splicePending = false)
    (hz : 16 ≤ (s.lane n).zeroRun) (hh : ∀ level d, r ≠ .hold level d)
    (hw : ∀ src level strict t, r ≠ .wait src level strict t) :
    doWork (.step n a) s =
      (faultLane .runaway n (s.setLane n ((s.lane n).beginStep a)), []) := by
  have spent : budgetStep n a r (s.setLane n ((s.lane n).beginStep a)) =
      (faultLane .runaway n (s.setLane n ((s.lane n).beginStep a)), []) := by
    simp [budgetStep, zeroDuration_of_ne _ _ hh hw, hz]
  simp only [doWork, takeStep, h, hp]
  cases r with
  | wait src level strict t => exact absurd rfl (hw src level strict t)
  | _ => exact spent

@[simp] theorem depart_arrived (n : LaneId) (s : State) (g : GroupId) :
    ((depart n s).group g).arrived = LaneSet.erase (s.group g).arrived n := by
  simp [depart, State.group]

theorem emptyArrived_nil (s : State) : emptyArrived [] s = s := by
  simp only [emptyArrived, List.not_mem_nil, if_false]
  rfl

/-- Where no lane is held at a group, a fault breaks no barrier (R121). -/
theorem brokenGroups_eq_nil {s : State} (h : ∀ g, (s.group g).arrived = 0) (ls : List LaneId) :
    brokenGroups s ls = [] := by
  simp [brokenGroups, groupHit, h]

theorem breakBarriers_of_empty {s : State} (h : ∀ g, (s.group g).arrived = 0)
    (ls : List LaneId) : breakBarriers ls s = (s, []) := by
  simp [breakBarriers, brokenGroups_eq_nil h, heldAt, emptyArrived_nil]

/-- The fault of a lane that no other lane is held beside is that lane's alone (R67, R121). -/
theorem faultLane_of_heldAlone {n : LaneId} {s : State} (h : s.heldAlone n) (c : FaultCause) :
    faultLane c n s = enterFault c n (depart n s) := by
  have empty : ∀ g, ((depart n s).group g).arrived = 0 := fun g => by
    rw [depart_arrived, h g]
  simp [faultLane, breakBarriers_of_empty empty]

/-- A terminal record is offered whatever the groups are. -/
theorem postTerminal_groups (n : LaneId) (d : Descriptor) (b : EventBody) (s : State)
    (gs : PerGroup Group) :
    postTerminal n d b { s with groups := gs } = { postTerminal n d b s with groups := gs } := by
  unfold postTerminal
  split <;> rfl

/-- Fault entry of a lane at a launch that no other lane is held beside. -/
theorem faultLane_alone {n : LaneId} {s : State} {x : Launch}
    (hx : (s.lane n).queue.active = some x) (h : s.heldAlone n) (c : FaultCause) :
    faultLane c n s =
      { postTerminal n x.desc
          (.aborted n x.desc.tag (s.lane n).passesDone (.fault c) (s.lane n).stepAddr)
          (s.setLane n ((s.lane n).faulted c)) with
        groups := s.groupsWithout n } := by
  have hl : (depart n s).lane n = s.lane n := rfl
  rw [faultLane_of_heldAlone h, ← postTerminal_groups]
  simp only [enterFault, hl, hx]
  rfl

/-- Settles O46: the record is judged before any other condition, and the fault of a lane held alone
is its own fault entry. -/
theorem illegalAndRunawaySteps : Obligations.IllegalAndRunawaySteps := by
  refine ⟨fun n a s => ⟨doWork_illegal, fun r => doWork_runaway⟩, fun n a s x hx alone => ?_⟩
  intro l fault
  have faults (c : FaultCause) :
      faultLane c n (s.setLane n ((s.lane n).beginStep a)) = fault c := by
    rw [faultLane_alone (by simpa using hx) (show (s.setLane n _).heldAlone n from alone)]
    simp [fault, l, Lane.faulted, Lane.beginStep, State.groupsWithout]
  refine ⟨fun h => by rw [doWork_illegal h, faults], fun r h hp hz hh hw => ?_⟩
  rw [doWork_runaway h hp hz.ge hh hw, faults]

end Sys2Proof.Machine
end

/-! ## INIT_CLEAR and the PMEM_DATA window (R2 to R4, R6 to R8, R10, R17, R19) -/

section
namespace Sys2Proof.Machine

/-- Clearing the next entry leaves it reading 0. -/
theorem Pmem.read_clearNext_self {m : Pmem} (h : m.wf = true) (hlt : m.cleared < 4096) :
    m.clearNext.read (BitVec.ofNat 12 m.cleared) = 0 := by
  have ha : (BitVec.ofNat 12 m.cleared).toNat = m.cleared := by
    simp [BitVec.toNat_ofNat, Nat.mod_eq_of_lt hlt]
  have hb (k : Nat) (hk : k < 4) : m.clearNext.readByte (4 * m.cleared + k) = 0 := by
    rw [Pmem.readByte_clearNext h, if_pos (by omega)]
  have hb0 : m.clearNext.readByte (4 * m.cleared) = 0 := hb 0 (by decide)
  rw [Pmem.read, ha, hb0, hb 1 (by decide), hb 2 (by decide), hb 3 (by decide)]
  rfl

/-- Settles O9: clearing the next entry leaves it 0 and every other byte as it was, and the entry
that is the memory's last is FFFh. -/
theorem initClearsOneEntry : Obligations.InitClearsOneEntry := by
  refine ⟨fun s k hk hwf hlt => ⟨s.pmem.clearNext, ?_, Pmem.clearNext_wf hwf hlt, rfl,
    Pmem.read_clearNext_self hwf hlt, fun b hb => ?_⟩, fun s hs => ?_⟩
  · have last : (if s.pmem.cleared + 1 < 4096 then some 224 else none) =
        if s.pmem.cleared = 4095 then none else some 224 := by
      by_cases h : s.pmem.cleared = 4095
      · rw [if_neg (by omega), if_pos h]
      · rw [if_pos (by omega), if_neg h]
    simp only [exec, execInitClear, hk, last]
  · rw [Pmem.readByte_clearNext hwf, if_neg (by omega)]
  · simp only [exec, execInitClear, hs]

/-- A list of kept words gives an entry a word exactly where it lists the entry. -/
theorem keptWord_isSome (kept : List (Addr × Word)) (a : Addr) :
    (keptWord kept a).isSome = true ↔ a ∈ kept.map fun e => e.1 := by
  induction kept with
  | nil => simp [keptWord]
  | cons e rest ih =>
    by_cases h : e.1 = a
    · simp [keptWord, h]
    · simp [keptWord, h, Ne.symm h, ih]

/-- Keeping a word, in the statement's words: an entry already kept is not kept again. -/
theorem Lane.keepWord_eq (a : Addr) (old : Word) (l : Lane) :
    l.keepWord a old =
      { l with
        sight := l.sight.map fun kept =>
          if a ∈ kept.map (fun e => e.1) then kept else (a, old) :: kept } := by
  simp only [Lane.keepWord, keptWord_isSome]

theorem PmemPtr.advance_eq (p : PmemPtr) :
    p.advance = ⟨if p.autoInc then p.addr + 1 else p.addr, p.autoInc⟩ := by
  unfold PmemPtr.advance
  split <;> rfl

/-- A PMEM_DATA write outside INIT (R7). -/
theorem writePmem_of_open {s : State} (h : s.init = none) (w : Word) :
    writePmem w s =
      { s with
        pmem := s.pmem.write s.ptr.addr w, ptr := s.ptr.advance
        lanes := PerLane.build fun n =>
          (s.lane n).keepWord s.ptr.addr (s.pmem.read s.ptr.addr) } := by
  simp [writePmem, State.initBusy, h]

/-- A PMEM_DATA read outside INIT (R8). -/
theorem readPmem_of_open {s : State} (h : s.init = none) :
    readPmem s =
      { s with
        ptr := s.ptr.advance
        port := { s.port with lastRead := some (s.pmem.read s.ptr.addr) } } := by
  simp [readPmem, State.initBusy, h]

theorem exec_pmemDataWrite {s : State} (h : s.portListens = true) (w : Word) :
    exec (.pmemDataWrite w) s = .next (writePmem w (s.wordAt .write 0x11)) :=
  congrArg _ (hostWord_of_listens h ..)

theorem exec_pmemDataRead {s : State} (h : s.portListens = true) :
    exec .pmemDataRead s = .next (readPmem (s.wordAt .read 0x11)) :=
  congrArg _ (hostWord_of_listens h ..)

/-- Settles O16: the laws of a word stored and read, and what a lane fetches behind a host write. -/
theorem patternWindowAccesses : Obligations.PatternWindowAccesses := by
  intro w s hl hi hwf next
  have hi' (d : Direction) : (s.wordAt d 0x11).init = none := hi
  have hnext : s.ptr.advance = next := s.ptr.advance_eq
  refine ⟨⟨s.pmem.write s.ptr.addr w, ?_, ?_, Pmem.write_wf hwf .., ?_, fun b hb => ?_⟩,
    fun n a => State.fetchWord_none a, fun n hn a => ?_, fun t n a ht => ?_, ?_⟩
  · rw [exec_pmemDataWrite hl, writePmem_of_open (hi' .write), ← hnext]
    simp only [← Lane.keepWord_eq]
    rfl
  · rw [Pmem.read_write hwf, if_pos rfl]
  · simp only [Pmem.write, Pmem.writeByte_cleared]
  · simp only [Pmem.readByte_write hwf]
    rw [if_neg (by omega), if_neg (by omega), if_neg (by omega), if_neg (by omega)]
  · simp [State.fetchWord, hn, keptWord]
  · rw [exec_pmemDataWrite hl] at ht
    cases ht
    rw [fetchWord_writePmem (s := s.wordAt .write 0x11) hwf (hi' .write)]
    constructor
    · intro hn
      have hstored : (s.wordAt .write 0x11).fetchWord n a = s.pmem.read a :=
        State.fetchWord_none a hn
      rw [hstored]
      exact if_congr (and_iff_right hn) rfl rfl
    · intro hn
      exact if_neg fun h => hn h.1
  · rw [exec_pmemDataRead hl, readPmem_of_open (hi' .read), ← hnext]
    rfl

end Sys2Proof.Machine
end

/-! ## Frames: the status byte, the command byte and the index (R158, R160, R162, R163, R167) -/

section
namespace Sys2Proof.Machine

/-! ### The status byte, bit by bit -/

theorem State.evqReady_iff (s : State) : s.evqReady = true ↔ s.evq.placed ≠ [] := by
  simp [State.evqReady]

theorem State.capqReady_iff (s : State) :
    s.capqReady = true ↔ s.capq.level ≤ s.capq.records.length := by
  simp [State.capqReady]

/-- A bit of the high part of a word. -/
theorem getLsbD_append_add {v w : Nat} (x : BitVec v) (y : BitVec w) (k : Nat) :
    (x ++ y).getLsbD (k + w) = x.getLsbD k := by
  simp [BitVec.getLsbD_append]

/-- The lowest bit of a word that ends in a flag. -/
theorem getLsbD_append_ofBool_zero {v : Nat} (x : BitVec v) (b : Bool) :
    (x ++ BitVec.ofBool b).getLsbD 0 = b := by
  rw [BitVec.getLsbD_append, if_pos Nat.zero_lt_one]
  cases b <;> rfl

/-- The bits of INT_STATUS (R158). -/
theorem State.causes_getLsbD (s : State) :
    s.causes.getLsbD 0 = s.evqReady ∧ s.causes.getLsbD 1 = s.ints.evqDrop ∧
      s.causes.getLsbD 2 = s.capqReady ∧ s.causes.getLsbD 3 = s.ints.capqGap ∧
      s.causes.getLsbD 4 = s.ints.portError := by
  unfold State.causes
  refine ⟨getLsbD_append_ofBool_zero _ _, ?_, ?_, ?_, ?_⟩
  · rw [getLsbD_append_add]
    exact getLsbD_append_ofBool_zero ..
  · rw [getLsbD_append_add, getLsbD_append_add]
    exact getLsbD_append_ofBool_zero ..
  · rw [getLsbD_append_add, getLsbD_append_add, getLsbD_append_add]
    exact getLsbD_append_ofBool_zero ..
  · rw [getLsbD_append_add, getLsbD_append_add, getLsbD_append_add, getLsbD_append_add]
    simp

theorem ne_zero_iff_getLsbD (x : BitVec 5) :
    x ≠ 0 ↔ x.getLsbD 0 = true ∨ x.getLsbD 1 = true ∨ x.getLsbD 2 = true ∨ x.getLsbD 3 = true ∨
      x.getLsbD 4 = true := by
  revert x
  decide

/-- IRQN is driven low while a cause is asserted and enabled (R160). -/
theorem State.irqnLow_iff {s : State} (h : s.port.rstnLow = false) :
    s.irqnLow = true ↔
      (s.evq.placed ≠ [] ∧ s.ints.enable.getLsbD 0 = true) ∨
      (s.ints.evqDrop = true ∧ s.ints.enable.getLsbD 1 = true) ∨
      (s.capq.level ≤ s.capq.records.length ∧ s.ints.enable.getLsbD 2 = true) ∨
      (s.ints.capqGap = true ∧ s.ints.enable.getLsbD 3 = true) ∨
      (s.ints.portError = true ∧ s.ints.enable.getLsbD 4 = true) := by
  obtain ⟨h0, h1, h2, h3, h4⟩ := s.causes_getLsbD
  simp only [State.irqnLow, h, Bool.not_false, Bool.true_and, decide_eq_true_eq]
  simp only [ne_zero_iff_getLsbD, BitVec.getLsbD_and, h0, h1, h2, h3, h4, Bool.and_eq_true,
    State.evqReady_iff, State.capqReady_iff]

/-- The bits of the status byte (R167, R175). -/
theorem State.statusByte_bits (s : State) :
    s.statusByte.getLsbD 7 = s.init.isSome ∧ s.statusByte.getLsbD 6 = s.irqnLow ∧
      s.statusByte.getLsbD 5 = s.evqReady ∧
      s.statusByte.getLsbD 4 = !s.capq.records.isEmpty ∧
      s.statusByte.getLsbD 3 = s.ints.portError ∧
      s.statusByte.getLsbD 2 = decide (s.port.cmdResult.code ≠ .ok) ∧
      s.statusByte.extractLsb' 0 2 = 1 := by
  unfold State.statusByte
  refine ⟨?_, ?_, ?_, ?_, ?_, ?_, BitVec.extractLsb'_append_eq_right⟩
  · rw [getLsbD_append_add, getLsbD_append_add, getLsbD_append_add, getLsbD_append_add,
      getLsbD_append_add, getLsbD_append_add]
    simp
  · rw [getLsbD_append_add, getLsbD_append_add, getLsbD_append_add, getLsbD_append_add,
      getLsbD_append_add]
    exact getLsbD_append_ofBool_zero ..
  · rw [getLsbD_append_add, getLsbD_append_add, getLsbD_append_add, getLsbD_append_add]
    exact getLsbD_append_ofBool_zero ..
  · rw [getLsbD_append_add, getLsbD_append_add, getLsbD_append_add]
    exact getLsbD_append_ofBool_zero ..
  · rw [getLsbD_append_add, getLsbD_append_add]
    exact getLsbD_append_ofBool_zero ..
  · rw [getLsbD_append_add]
    exact getLsbD_append_ofBool_zero ..

/-! ### The command byte -/

theorem commandDirection_eq_write (b : Byte) :
    commandDirection b = .write ↔ b.getLsbD 7 = true := by
  unfold commandDirection
  split <;> simp_all

@[simp] theorem commandDirection_commandByte (d : Direction) (i : Index) :
    commandDirection (commandByte d i) = d := by
  have bit (b : BitVec 1) : BitVec.getLsbD (w := 8) (b ++ i) 7 = b.getLsbD 0 :=
    getLsbD_append_add b i 0
  cases d <;> rw [commandDirection, commandByte, bit] <;> rfl

@[simp] theorem commandIndex_commandByte (d : Direction) (i : Index) :
    commandIndex (commandByte d i) = i :=
  BitVec.extractLsb'_append_eq_right

/-! ### Which indices a frame comes to -/

theorem plainRead_eq_false {c : Index} (h : regAt c = none ∨ c = 0x11) : plainRead c = false := by
  rcases h with h | rfl
  · simp [plainRead, h]
  · rfl

theorem Reg.eq_pmemData_of_regAt {c : Index} (h : regAt c = some .pmemData) : c = 0x11 := by
  revert c
  decide

theorem plainRead_eq_true {c : Index} (h : regAt c ≠ none) (hc : c ≠ 0x11) :
    plainRead c = true := by
  unfold plainRead
  split
  · contradiction
  · next h => exact absurd (Reg.eq_pmemData_of_regAt h) hc
  · rfl

/-- Past a plain read the index is the next one: PMEM_DATA is none (R10, R163). -/
theorem nextIndex_of_plainRead {c : Index} (h : plainRead c = true) : nextIndex c = c + 1 := by
  refine if_neg fun hc => ?_
  rw [plainRead_eq_false (.inr hc)] at h
  cases h

@[simp] theorem readsReach_self (k : Nat) (c : Index) : readsReach k c c = true := by
  cases k <;> simp [readsReach]

/-- From another index, a read frame comes on only over a plain read. -/
theorem readsReach_succ_of_ne {k : Nat} {c i : Index} (h : c ≠ i) :
    readsReach (k + 1) c i = (plainRead c && readsReach k (nextIndex c) i) := by
  simp [readsReach, h]

theorem readsReach_mono {k : Nat} {c i : Index} (h : readsReach k c i = true) :
    readsReach (k + 1) c i = true := by
  induction k generalizing c with
  | zero => simp_all [readsReach]
  | succ k ih =>
    by_cases hc : c = i
    · subst hc
      simp
    · rw [readsReach_succ_of_ne hc, Bool.and_eq_true] at h ⊢
      exact ⟨h.1, ih h.2⟩

/-- An index that takes one plain read more to come to is that many indices on. -/
theorem readsReach_of_succ {k : Nat} {c i : Index} (h : readsReach (k + 1) c i = true) :
    readsReach k c i = true ∨ i = c + BitVec.ofNat 7 (k + 1) := by
  by_cases hc : c = i
  · subst hc
    simp
  · rw [readsReach_succ_of_ne hc, Bool.and_eq_true] at h
    obtain ⟨hplain, hreach⟩ := h
    rw [nextIndex_of_plainRead hplain] at hreach
    cases k with
    | zero =>
      have hi : c + 1 = i := of_decide_eq_true hreach
      exact .inr hi.symm
    | succ k =>
      rcases readsReach_of_succ hreach with h | h
      · refine .inl ?_
        rw [readsReach_succ_of_ne hc, hplain, nextIndex_of_plainRead hplain, h, Bool.and_self]
      · refine .inr ?_
        rw [h, BitVec.add_assoc]
        congr 1
        simp [BitVec.ofNat_add, BitVec.add_comm]

/-- Between two different indices, one plain read less is as good as going on from the next one: no
frame comes back around to where it began. -/
theorem readsReach_next {c i : Index} (hc : plainRead c = true) (hi : c ≠ i) :
    readsReach 127 c i = readsReach 127 (c + 1) i := by
  rw [readsReach_succ_of_ne hi, hc, Bool.true_and, nextIndex_of_plainRead hc, Bool.eq_iff_iff]
  refine ⟨readsReach_mono, fun h => (readsReach_of_succ h).resolve_right fun he => hi ?_⟩
  rw [he, BitVec.add_assoc]
  exact (BitVec.add_zero c).symm

@[simp] theorem wordReaches_self (d : Direction) (i : Index) : wordReaches d i i = true := by
  cases d <;> simp [wordReaches]

/-! ### The frame a word belongs to -/

theorem PortFrame.forWord_fresh (status b : Byte) (d : Direction) (i : Index) :
    PortFrame.forWord status d i ⟨b, none, none⟩ = ⟨b, some d, some i⟩ := by
  simp [PortFrame.forWord, PortFrame.commanded]

theorem PortFrame.forWord_goesOn (status b : Byte) {d : Direction} {c i : Index}
    (h : wordReaches d c i = true) :
    PortFrame.forWord status d i ⟨b, some d, some c⟩ = ⟨b, some d, some c⟩ := by
  simp [PortFrame.forWord, h]

theorem PortFrame.forWord_begins (status b : Byte) {d e : Direction} {c i : Index}
    (h : ¬(e = d ∧ wordReaches d c i = true)) :
    PortFrame.forWord status d i ⟨b, some e, some c⟩ = ⟨status, some d, some i⟩ := by
  simp [PortFrame.forWord, PortFrame.commanded, h]

/-- With no frame in progress a word changes none. -/
theorem State.wordAt_of_none {s : State} (h : s.port.frame = none) (d : Direction) (i : Index) :
    s.wordAt d i = s := by
  cases s with | mk pmem init ptr tb lanes staging carriers groups inputs capq evq ints port =>
  cases port
  cases h
  rfl

/-- With a frame in progress a word leaves the frame it belongs to, at the next index. -/
theorem State.wordAt_of_some {s : State} {f : PortFrame} (h : s.port.frame = some f)
    (d : Direction) (i : Index) :
    s.wordAt d i =
      { s with
        port := { s.port with
          frame := some { f.forWord s.statusByte d i with cursor := some (nextIndex i) } } } := by
  simp [State.wordAt, State.advanceFrame, h]

/-- Settles O11: the status byte by its bits, the command byte by its two fields, and the frame of a
word by the frame it finds in progress. -/
theorem frameEdges : Obligations.FrameEdges := by
  refine ⟨fun s hr => ?_, fun s => rfl, fun s t => ⟨fun h => ?_, fun hr h => ?_⟩,
    fun b d i => ⟨commandDirection_eq_write b, rfl, commandDirection_commandByte d i,
      commandIndex_commandByte d i⟩, fun d i s => ?_⟩
  · obtain ⟨h7, h6, h5, h4, h3, h2, h10⟩ := s.statusByte_bits
    refine ⟨s.statusByte, by simp [exec, execFrameStart, hr], by rw [h7], ?_, h6, ?_, ?_, by rw [h3],
      ?_, h10⟩
    · rw [h6, State.irqnLow_iff hr]
    · rw [h5, State.evqReady_iff]
    · rw [h4]
      simp
    · rw [h2, decide_eq_true_iff]
  · cases h
    simp [State.sdoHighz]
  · simp only [exec, execFrameStart, hr] at h
    cases h
    simp [State.sdoHighz]
  · intro next with_ sameFrame newFrame
    refine ⟨fun h => State.wordAt_of_none h d i, fun b h => ?_, fun b h => ?_, fun b e c h hd => ?_,
      fun b c h hc => ?_, fun b c h hd hc => ⟨fun hstop => ?_, fun hmap hpmem => ?_⟩⟩
    · rw [State.wordAt_of_some h, PortFrame.forWord_fresh]
      rfl
    · rw [State.wordAt_of_some h, PortFrame.forWord_goesOn _ _ (wordReaches_self d i)]
      rfl
    · rw [State.wordAt_of_some h, PortFrame.forWord_begins _ _ fun he => hd he.1]
      rfl
    · have hnew : ¬(Direction.write = d ∧ wordReaches d c i = true) := by
        rintro ⟨rfl, hreach⟩
        exact hc (of_decide_eq_true hreach)
      rw [State.wordAt_of_some h, PortFrame.forWord_begins _ _ hnew]
      rfl
    · subst hd
      have hnew : wordReaches .read c i = false := by
        simp only [wordReaches]
        rw [readsReach_succ_of_ne hc, plainRead_eq_false hstop, Bool.false_and]
      rw [State.wordAt_of_some h, PortFrame.forWord_begins _ _ (by simp [hnew])]
      rfl
    · subst hd
      have hnext : wordReaches .read c i = wordReaches .read (c + 1) i :=
        readsReach_next (plainRead_eq_true hmap hpmem) hc
      have hsame : (with_ (some ⟨b, some .read, some (c + 1)⟩)).statusByte = s.statusByte := rfl
      rw [State.wordAt_of_some h, State.wordAt_of_some (s := with_ _) rfl, hsame]
      cases hreach : wordReaches .read c i with
      | true =>
        rw [PortFrame.forWord_goesOn _ _ hreach, PortFrame.forWord_goesOn _ _ (hnext ▸ hreach)]
      | false =>
        have hreach' : wordReaches .read (c + 1) i = false := hnext ▸ hreach
        rw [PortFrame.forWord_begins _ _ (by simp [hreach]),
          PortFrame.forWord_begins _ _ (by rw [hreach']; simp)]

end Sys2Proof.Machine
end

/-! ## Port errors, plain register writes and refused commands (R4, R164 to R169) -/

section
namespace Sys2Proof.Machine

/-! ### A short frame -/

theorem exec_shortFrame {s : State} (h : s.portListens = true) (cut : Cut) :
    exec (.shortFrame cut) s = .next (endCutFrame (cutWord cut s)) := by
  simp [exec, execShortFrame, h]

/-- Of two port errors the first is the one latched (R166). -/
theorem State.portError_twice (s : State) (c d : PortCause) (i j : Index) :
    (s.portError c i).portError d j = s.portError c i := by
  simp [State.portError]

/-- A cut read is judged as the read it was, before its frame is found short (R4, R165). -/
theorem cutWord_read (i : Index) (s : State) :
    cutWord (.dataWord .read i) s =
      if regAt i = none then s.portError .badIndex i
      else if i = 0x11 ∧ s.init ≠ none then s.portError .initAccess i
      else s.portError .shortFrame i := by
  simp only [cutWord, State.portError_twice]
  split
  · next h => simp [h]
  · next h =>
    have hmap : regAt i ≠ none := by simp [h]
    obtain rfl := Reg.eq_pmemData_of_regAt h
    rw [if_neg hmap]
    exact if_congr (by simp [State.initBusy, Option.isSome_iff_ne_none]) rfl rfl
  · next r hr h =>
    have hi : i ≠ 0x11 := by
      rintro rfl
      exact hr (Option.some.inj h).symm
    rw [if_neg (by simp [h]), if_neg fun hw => hi hw.1]

/-- Settles O12: each cut ends in one port error, the cut read's own where it has one. -/
theorem shortFrameIsAPortError : Obligations.ShortFrameIsAPortError := by
  intro cut s h err
  rw [exec_shortFrame h]
  rcases cut with _ | ⟨_ | _, i⟩
  · rfl
  · simp only [cutWord_read, err]
    split
    · rfl
    · split <;> rfl
  · rfl

/-! ### Register writes -/

theorem exec_registerWrite {s : State} (h : s.portListens = true) {i : Index} {r : Reg}
    (hr : regAt i = some r) (w : Word) :
    exec (.registerWrite i w) s = .next (writeReg r w (s.wordAt .write i)) := by
  simp only [exec, execRegisterWrite, hostWord_of_listens h, writeAt, hr]
  rfl

/-- Settles O14: each index is that register's, and its write stores the word or its fields. -/
theorem plainRegisterWrites : Obligations.PlainRegisterWrites := by
  intro w s h
  refine ⟨exec_registerWrite h (r := .pmemPtr) rfl w, exec_registerWrite h (r := .lqDesc0) rfl w,
    exec_registerWrite h (r := .lqDesc1) rfl w, exec_registerWrite h (r := .lqTime) rfl w,
    exec_registerWrite h (r := .tbDiv .internal) rfl w,
    exec_registerWrite h (r := .tbDiv .external) rfl w,
    exec_registerWrite h (r := .tbDiv .holdover) rfl w,
    exec_registerWrite h (r := .tbCtrl) rfl w⟩

/-! ### Op codes no command has -/

/-- Both command registers judge INIT before the op code, and refuse a code they do not define (R4,
R168, R169). -/
theorem writeGlobalCmd_undefined {w : Word} (h : opDefined (opCode w) = false) (s : State) :
    writeGlobalCmd w s =
      s.report (if s.init = none then .badCommand else .initBusy) Reg.globalCmd.index := by
  unfold writeGlobalCmd
  cases hi : s.init with
  | some k => simp [State.initBusy, hi]
  | none =>
    rw [if_neg (by simp [State.initBusy, hi]), if_pos rfl]
    split
    case h_6 => rfl
    all_goals simp_all [opDefined]

theorem writeLaneCmd_undefined {op : BitVec 4} (h : opDefined op = false) (lane : BitVec 3)
    (s : State) :
    writeLaneCmd op lane s =
      s.report (if s.init = none then .badCommand else .initBusy) Reg.laneCmd.index := by
  unfold writeLaneCmd
  cases hi : s.init with
  | some k => simp [State.initBusy, hi]
  | none =>
    rw [if_neg (by simp [State.initBusy, hi]), if_pos rfl]
    split
    case h_6 => rfl
    all_goals simp_all [opDefined]

theorem opDefined_eq_false {op : BitVec 4} (h : op = 0 ∨ 6 ≤ op.toNat) : opDefined op = false := by
  rcases h with rfl | h
  · rfl
  · exact decide_eq_false (by omega)

/-- Settles O15: both registers refuse the codes they do not define. -/
theorem undefinedOpsAreRefused : Obligations.UndefinedOpsAreRefused := by
  refine ⟨fun w s h hop => ?_, fun op lane s h hop => ?_⟩
  · rw [exec_registerWrite h (r := .globalCmd) rfl]
    simp only [writeReg, writeGlobalCmd_undefined (opDefined_eq_false (op := opCode w) hop)]
    rfl
  · simp only [exec, execLaneCmdBadCommand, hostWord_of_listens h,
      writeLaneCmd_undefined (opDefined_eq_false hop)]
    rfl

/-! ### The window and the commands during INIT -/

theorem State.initBusy_of_ne_none {s : State} (h : s.init ≠ none) : s.initBusy = true :=
  Option.isSome_iff_ne_none.mpr h

theorem globalCommand_of_busy {s : State} (h : s.initBusy = true) (op : State → State) :
    globalCommand op s = s.report .initBusy Reg.globalCmd.index := by
  simp [globalCommand, h]

theorem laneCommand_of_busy {s : State} (h : s.initBusy = true) (op : LaneId → State → State)
    (lane : BitVec 3) : laneCommand op lane s = s.report .initBusy Reg.laneCmd.index := by
  simp [laneCommand, h]

/-- A global command's word, taken during INIT (R168). -/
theorem hostWord_globalCommand_of_busy {s : State} (h : s.portListens = true)
    (hi : s.init ≠ none) (op : State → State) :
    hostWord .write Reg.globalCmd.index (globalCommand op) s =
      { s with port := { (s.wordAt .write 0x02).port with cmdResult := ⟨.initBusy, 0x02⟩ } } := by
  rw [hostWord_of_listens h, globalCommand_of_busy (s := s.advanceFrame _ _)
    (State.initBusy_of_ne_none hi)]
  rfl

/-- A lane command's word, taken during INIT (R169). -/
theorem hostWord_laneCommand_of_busy {s : State} (h : s.portListens = true)
    (hi : s.init ≠ none) (op : LaneId → State → State) (lane : BitVec 3) :
    hostWord .write Reg.laneCmd.index (laneCommand op lane) s =
      { s with port := { (s.wordAt .write 0x03).port with cmdResult := ⟨.initBusy, 0x03⟩ } } := by
  rw [hostWord_of_listens h, laneCommand_of_busy (s := s.advanceFrame _ _)
    (State.initBusy_of_ne_none hi)]
  rfl

/-- Settles O17: INIT is judged before the word, the op code and the lane. -/
theorem initClosesTheWindow : Obligations.InitClosesTheWindow := by
  intro s h hi
  have busy (d : Direction) : (s.wordAt d 0x11).initBusy = true := State.initBusy_of_ne_none hi
  have global := hostWord_globalCommand_of_busy h hi
  have lanes := hostWord_laneCommand_of_busy h hi
  refine ⟨fun w => ?_, ?_, ?_, fun lane => ?_⟩
  · rw [exec_pmemDataWrite h, writePmem, if_pos (busy .write)]
    rfl
  · rw [exec_pmemDataRead h, readPmem, if_pos (busy .read)]
    rfl
  · simp only [List.forall_mem_cons]
    exact ⟨congrArg _ (global _), congrArg _ (global _), congrArg _ (global _),
      congrArg _ (global _), congrArg _ (global _), List.forall_mem_nil _⟩
  · simp only [List.forall_mem_cons]
    exact ⟨congrArg _ (lanes _ lane), congrArg _ (lanes _ lane), congrArg _ (lanes _ lane),
      congrArg _ (lanes _ lane), congrArg _ (lanes _ lane), List.forall_mem_nil _⟩

end Sys2Proof.Machine
end

/-! ## The resets (R2, R3, R5, R27, R41, R72, R98, R111, R125, R135, R145, R161, R172) -/

section
namespace Sys2Proof.Machine

/-- Every block but the memory and INIT is at reset after a hard reset. -/
theorem hardReset_atReset (s : State) : (hardReset s).AtReset := by
  have lanes (n : LaneId) : (hardReset s).lane n = resetLane resetLaneCfg :=
    PerLane.get_build _ n
  have carriers (x : CarrierId) : (hardReset s).carrier x = resetCarrier :=
    PerCarrier.get_build _ x
  have groups (g : GroupId) : (hardReset s).group g = resetGroup := PerGroup.get_build _ g
  have inputs (i : LineId) : (hardReset s).input i = resetInput (s.input i).pin :=
    PerLine.get_build _ i
  refine ⟨rfl, rfl, lanes, rfl, carriers, groups, fun i => ?_, rfl, rfl, rfl, rfl, rfl, rfl, rfl⟩
  rw [inputs]
  rfl

theorem hardReset_input_pin (s : State) (i : LineId) :
    ((hardReset s).input i).pin = (s.input i).pin := by
  have reset : (hardReset s).input i = resetInput (s.input i).pin := PerLine.get_build _ i
  rw [reset]
  rfl

/-- The machine's first state is at reset (log 4). -/
theorem reset_atReset : State.reset.AtReset := by
  refine ⟨rfl, rfl, fun n => PerLane.get_build _ n, rfl, fun x => PerCarrier.get_build _ x,
    fun g => PerGroup.get_build _ g, fun i => ?_, rfl, rfl, rfl, rfl, rfl, rfl, rfl⟩
  cases i <;> rfl

/-- A memory with nothing listed and nothing cleared reads as it came up (R2). -/
theorem Pmem.readByte_fresh (boot k : Nat) :
    (Pmem.mk [] 0 boot).readByte k = Config.powerUpByte boot k := by
  simp [Pmem.readByte, findCell, Pmem.unlisted]

/-- Settles O6: POR is a hard reset with the memory brought up and INIT begun. -/
theorem powerOnReset : Obligations.PowerOnReset :=
  ⟨⟨reset_atReset, rfl, rfl, Pmem.readByte_fresh 0, rfl⟩,
    fun s => ⟨_, rfl, hardReset_atReset s, rfl, rfl, Pmem.readByte_fresh _, rfl,
      hardReset_input_pin s, rfl, rfl⟩⟩

/-- Settles O7: the release of RSTN is a hard reset that ends INIT and keeps the memory. -/
theorem rstnHoldAndRelease : Obligations.RstnHoldAndRelease :=
  ⟨fun _ => rfl, fun s => ⟨_, rfl, hardReset_atReset s, rfl, rfl, rfl, rfl,
    hardReset_input_pin s⟩⟩

/-! ### The invariants at reset -/

theorem reset_lane (n : LaneId) : State.reset.lane n = resetLane resetLaneCfg :=
  PerLane.get_build _ n

theorem reset_memoryOk : State.reset.MemoryOk :=
  ⟨reset_pmem_wf, fun _ => Nat.zero_lt_succ 4095⟩

theorem reset_queuesOk : State.reset.QueuesOk := by
  refine ⟨Nat.zero_le 32, fun h => absurd rfl h, fun n => ?_, rfl, Nat.zero_le 32⟩
  rw [State.QueueOk, reset_lane]
  exact ⟨Nat.zero_le 4, rfl⟩

theorem reset_lanesOk : State.reset.LanesOk := by
  intro n
  rw [reset_lane]
  simp [Lane.Ok, resetLane]

theorem reset_groupsOk : State.reset.GroupsOk := by
  have groups (g : GroupId) : State.reset.group g = resetGroup := PerGroup.get_build _ g
  refine ⟨fun g => ⟨fun n h => ?_, fun _ => ?_⟩, fun n h => ?_⟩
  · simp [groups, resetGroup] at h
  · simp [groups, resetGroup]
  · simp [groups, resetGroup] at h

theorem reset_unitsOk : State.reset.UnitsOk := by
  have carriers (x : CarrierId) : State.reset.carrier x = resetCarrier := PerCarrier.get_build _ x
  have inputs (i : LineId) : State.reset.input i = resetInput .low := PerLine.get_build _ i
  refine ⟨?_, fun x => ?_, fun i => ?_, ?_⟩
  · change resetTimebase.Ok
    simp [Timebase.Ok, resetTimebase, TbState.monitored, Divider.total, Divider.divisor]
  · rw [carriers]
    simp [Carrier.Ok, resetCarrier, WidthPair.Ok]
  · rw [inputs]
    simp [InputLine.Ok, resetInput, InputLine.f]
  · exact ⟨fun h => absurd h (by decide), fun h => absurd h (by decide)⟩

/-- Settles O55, block by block. -/
theorem resetMeetsTheInvariants : Obligations.ResetMeetsTheInvariants :=
  ⟨reset_memoryOk, reset_queuesOk, reset_lanesOk, reset_groupsOk, reset_unitsOk⟩

end Sys2Proof.Machine
end

/-! ## What a run of lane work keeps of the queues and the carriers (R37, R73, R97, R99, R148) -/

section
namespace Sys2Proof.Machine

/-- `State.QueuesOk` but for the four slots of a launch queue: what a record offered in the middle of
an event keeps, while the slots it takes may not have been let go of yet. -/
def State.QueuesAgree (s : State) : Prop :=
  s.evq.placed.length ≤ 32 ∧ (s.evq.deferral ≠ [] → s.evq.placed.length = 32) ∧
    (∀ n, (s.lane n).queue.awaiting.length = s.evq.deferral.count (.lane n)) ∧
    s.evq.deferral.count .timebase = (if s.tb.record.isSome then 1 else 0) ∧
    s.capq.records.length ≤ 32

theorem State.queuesOk_iff (s : State) :
    s.QueuesOk ↔ s.QueuesAgree ∧ ∀ n, (s.lane n).queue.slots ≤ 4 := by
  constructor
  · rintro ⟨hp, hd, hq, ht, hc⟩
    exact ⟨⟨hp, hd, fun n => (hq n).2, ht, hc⟩, fun n => (hq n).1⟩
  · rintro ⟨⟨hp, hd, ha, ht, hc⟩, hs⟩
    exact ⟨hp, hd, fun n => ⟨hs n, ha n⟩, ht, hc⟩

/-- The agreement of the queues rests on the two record queues, the pending TIMEBASE record and the
AWAIT_POST slots alone. -/
theorem State.QueuesAgree.of_same {s t : State} (h : s.QueuesAgree)
    (placed : t.evq.placed = s.evq.placed) (deferral : t.evq.deferral = s.evq.deferral)
    (record : t.tb.record = s.tb.record) (records : t.capq.records = s.capq.records)
    (awaiting : ∀ n, (t.lane n).queue.awaiting = (s.lane n).queue.awaiting) : t.QueuesAgree := by
  unfold State.QueuesAgree
  simp only [placed, deferral, record, records, awaiting]
  exact h

/-- A record for which there is no room finds the Event Queue full. -/
theorem State.QueuesAgree.full {s : State} (h : s.QueuesAgree) (hp : s.evq.canPlace = false) :
    s.evq.placed.length = 32 := by
  obtain ⟨hlen, hfull, -⟩ := h
  by_cases hd : s.evq.deferral = []
  · have : ¬(s.evq.placed.length < 32 ∧ s.evq.deferral = []) := by
      rw [← EventQueue.canPlace_iff, hp]
      exact Bool.false_ne_true
    exact Nat.le_antisymm hlen (Nat.le_of_not_lt fun hlt => this ⟨hlt, hd⟩)
  · exact hfull hd

/-- Placing a record for which there is room keeps the queues in agreement. -/
theorem State.QueuesAgree.place {s : State} (h : s.QueuesAgree) (hp : s.evq.canPlace = true)
    (r : EventRecord) : State.QueuesAgree { s with evq := s.evq.place r } := by
  obtain ⟨-, -, ha, ht, hc⟩ := h
  obtain ⟨hlt, hd⟩ := (EventQueue.canPlace_iff _).1 hp
  refine ⟨?_, fun hne => absurd hd hne, ha, ht, hc⟩
  simp only [EventQueue.place_placed, List.length_append, List.length_singleton]
  exact hlt

def State.CarriersOk (s : State) : Prop := ∀ x, (s.carrier x).Ok

theorem LaunchQueue.slots_eq (q : LaunchQueue) :
    q.slots = q.awaiting.length + q.active.toList.length + q.pending.length := rfl

/-- What an operation that defers at most k records of lane n keeps of the invariants: the queues
agree, only lane n takes slots, at most k, and the carriers keep their bounds. -/
structure Defers (n : LaneId) (k : Nat) (s t : State) : Prop where
  agree : s.QueuesAgree → t.QueuesAgree
  slots : (t.lane n).queue.slots ≤ (s.lane n).queue.slots + k
  others : ∀ m, m ≠ n → (t.lane m).queue.slots ≤ (s.lane m).queue.slots
  carriers : s.CarriersOk → t.CarriersOk

/-- What every operation inside an event keeps of the invariants: the queues agree, no launch queue
takes a slot more than it held, and the carriers keep their bounds. -/
structure StepSound (s t : State) : Prop where
  agree : s.QueuesAgree → t.QueuesAgree
  slots : ∀ n, (t.lane n).queue.slots ≤ (s.lane n).queue.slots
  carriers : s.CarriersOk → t.CarriersOk

theorem StepSound.refl (s : State) : StepSound s s := ⟨id, fun _ => le_rfl, id⟩

theorem StepSound.trans {s t u : State} (h : StepSound s t) (k : StepSound t u) : StepSound s u :=
  ⟨k.agree ∘ h.agree, fun n => (k.slots n).trans (h.slots n), k.carriers ∘ h.carriers⟩

theorem StepSound.queuesOk {s t : State} (h : StepSound s t) (hs : s.QueuesOk) : t.QueuesOk := by
  obtain ⟨ha, hb⟩ := s.queuesOk_iff.1 hs
  exact t.queuesOk_iff.2 ⟨h.agree ha, fun n => (h.slots n).trans (hb n)⟩

theorem Defers.trans {n : LaneId} {j k : Nat} {s t u : State} (h : Defers n j s t)
    (i : Defers n k t u) : Defers n (j + k) s u :=
  ⟨i.agree ∘ h.agree, by have := h.slots; have := i.slots; omega,
    fun m hm => (i.others m hm).trans (h.others m hm), i.carriers ∘ h.carriers⟩

/-! ### Changes of lanes and groups -/

/-- New lanes that hold the same AWAIT_POST slots and no more slots. -/
theorem StepSound.lanes {s : State} {v : PerLane Lane}
    (h : ∀ n, (v.get n).queue.awaiting = (s.lane n).queue.awaiting ∧
      (v.get n).queue.slots ≤ (s.lane n).queue.slots) : StepSound s { s with lanes := v } :=
  ⟨fun hs => hs.of_same rfl rfl rfl rfl fun n => (h n).1, fun n => (h n).2, id⟩

theorem StepSound.setLane {s : State} {n : LaneId} {l : Lane}
    (awaiting : l.queue.awaiting = (s.lane n).queue.awaiting)
    (slots : l.queue.slots ≤ (s.lane n).queue.slots) : StepSound s (s.setLane n l) := by
  refine .lanes fun m => ?_
  by_cases hm : m = n
  · subst hm
    rw [PerLane.get_set_self]
    exact ⟨awaiting, slots⟩
  · rw [PerLane.get_set_ne _ _ hm]
    exact ⟨rfl, le_rfl⟩

/-- A lane changed but for its launch queue. -/
theorem StepSound.setLane_queue {s : State} {n : LaneId} {l : Lane}
    (h : l.queue = (s.lane n).queue) : StepSound s (s.setLane n l) :=
  .setLane (congrArg _ h) (congrArg LaunchQueue.slots h).le

/-- An operation behind a change of a lane but for its launch queue. -/
theorem StepSound.of_setLane {s t : State} {n : LaneId} {l : Lane}
    (k : StepSound (s.setLane n l) t) (h : l.queue = (s.lane n).queue) : StepSound s t :=
  (StepSound.setLane_queue h).trans k

theorem StepSound.groups (s : State) (v : PerGroup Group) : StepSound s { s with groups := v } :=
  ⟨fun hs => hs.of_same rfl rfl rfl rfl fun _ => rfl, fun _ => le_rfl, id⟩

/-! ### Offers of records -/

theorem StepSound.offerInfo (b : EventBody) (s : State) : StepSound s (offerInfo b s) := by
  rcases offerInfo_cases b s with ⟨hp, h⟩ | ⟨-, h⟩ <;> rw [h]
  · exact ⟨fun hs => hs.place hp _, fun _ => le_rfl, id⟩
  · exact ⟨fun hs => hs.of_same rfl rfl rfl rfl fun _ => rfl, fun _ => le_rfl, id⟩

/-- A terminal record takes at most one slot of its lane (R86, R97). -/
theorem Defers.postTerminal (n : LaneId) (d : Descriptor) (b : EventBody) (s : State) :
    Defers n 1 s (postTerminal n d b s) := by
  rcases postTerminal_cases n d b s with ⟨hp, h⟩ | ⟨hp, h⟩ <;> rw [h]
  · exact ⟨fun hs => hs.place hp _, Nat.le_succ _, fun _ _ => le_rfl, id⟩
  · have self : (s.setLane n ((s.lane n).withHeld ⟨d, ⟨s.tb.time, 0, b⟩⟩)).lane n = _ :=
      s.lane_setLane_self n _
    have other (m : LaneId) (hm : m ≠ n) :=
      s.lane_setLane_ne ((s.lane n).withHeld ⟨d, ⟨s.tb.time, 0, b⟩⟩) hm
    refine ⟨fun hs => ?_, ?_,
      fun m hm => (congrArg (fun l : Lane => l.queue.slots) (other m hm)).le, id⟩
    · have full := hs.full hp
      obtain ⟨-, -, ha, ht, hc⟩ := hs
      refine ⟨full.le, fun _ => full, fun m => ?_, Eq.trans (by simp) ht, hc⟩
      by_cases hm : m = n
      · subst hm
        change ((s.setLane m _).lane m).queue.awaiting.length = _
        rw [self]
        simp [Lane.withHeld, ha]
      · change ((s.setLane n _).lane m).queue.awaiting.length = _
        rw [other m hm, ha]
        simp [Ne.symm hm]
    · change ((s.setLane n _).lane n).queue.slots ≤ _
      rw [self]
      simp only [LaunchQueue.slots_eq, Lane.withHeld, List.length_append, List.length_singleton]
      omega

/-- The records of k slots a lane has let go of may be deferred in as many slots. -/
theorem StepSound.of_freed {s t : State} {n : LaneId} {l : Lane} {k : Nat}
    (awaiting : l.queue.awaiting = (s.lane n).queue.awaiting)
    (slots : l.queue.slots + k ≤ (s.lane n).queue.slots) (h : Defers n k (s.setLane n l) t) :
    StepSound s t := by
  have freed : StepSound s (s.setLane n l) := .setLane awaiting (by omega)
  refine ⟨h.agree ∘ freed.agree, fun m => ?_, h.carriers ∘ freed.carriers⟩
  by_cases hm : m = n
  · subst hm
    have := h.slots
    rw [s.lane_setLane_self] at this
    omega
  · exact (h.others m hm).trans (freed.slots m)

/-- The ACTIVE slot of a lane becomes the slot of its terminal record (R86). -/
theorem StepSound.postActive {s : State} {n : LaneId} {l : Lane} {a : Launch}
    (ha : (s.lane n).queue.active = some a)
    (hq : l.queue = { (s.lane n).queue with active := none }) (d : Descriptor) (b : EventBody) :
    StepSound s (Sys2Proof.Machine.postTerminal n d b (s.setLane n l)) := by
  refine .of_freed (l := l) (k := 1) (by rw [hq]) ?_ (.postTerminal ..)
  rw [hq]
  simp only [LaunchQueue.slots_eq, ha, Option.toList_none, Option.toList_some, List.length_nil,
    List.length_singleton]
  omega

/-- A gate follows its lane, and the launch queue does not. -/
@[simp] theorem judgeSegment_queue (cs : PerCarrier Carrier) (a b : Lane) :
    (judgeSegment cs a b).queue = b.queue := by
  have ended (c : Carrier) (x : CarrierId) : (endSegment c x b).queue = b.queue := by
    unfold endSegment
    split <;> rfl
  have begun (x : CarrierId) (l : Lane) : (beginSegment x l).queue = l.queue := by
    unfold beginSegment
    split
    · rfl
    · split <;> rfl
  unfold judgeSegment
  split
  · rfl
  · cases a.called <;> cases b.called <;> simp [ended, begun]

/-- The order of R152 keeps the entries of an event, so that settling it keeps the agreement. -/
theorem StepSound.settle (s t : State) : StepSound t (settle s t) := by
  have queue (n : LaneId) : ((Machine.settle s t).lane n).queue = (t.lane n).queue := by
    rw [settle_lane]
    exact judgeSegment_queue ..
  have perm : (Machine.settle s t).evq.deferral.Perm t.evq.deferral := by
    have := (sortEntries_perm (t.evq.deferral.drop s.evq.deferral.length)).append_left
      (t.evq.deferral.take s.evq.deferral.length)
    rwa [List.take_append_drop] at this
  refine ⟨fun ⟨hp, hd, ha, ht, hc⟩ => ⟨hp, fun hne => hd fun h => hne ?_, fun n => ?_, ?_, hc⟩,
    fun n => (congrArg LaunchQueue.slots (queue n)).le, id⟩
  · rw [h] at perm
    exact perm.eq_nil
  · rw [queue, perm.count_eq, ha]
  · rw [perm.count_eq, ht]
    rfl

/-! ### Faults -/

theorem StepSound.depart (n : LaneId) (s : State) : StepSound s (depart n s) := .groups ..

theorem StepSound.emptyArrived (gs : List GroupId) (s : State) : StepSound s (emptyArrived gs s) :=
  .groups ..

/-- A lane without its ACTIVE launch holds no more slots. -/
theorem LaunchQueue.slots_inactive (q : LaunchQueue) :
    LaunchQueue.slots { q with active := none } ≤ q.slots := by
  simp [LaunchQueue.slots_eq]

theorem StepSound.enterFault (c : FaultCause) (n : LaneId) (s : State) :
    StepSound s (enterFault c n s) := by
  unfold Machine.enterFault
  dsimp only
  split
  · exact .setLane rfl (LaunchQueue.slots_inactive _)
  · next a ha => exact .postActive ha rfl ..

theorem StepSound.breakBarriers (ls : List LaneId) (s : State) :
    StepSound s (breakBarriers ls s).1 :=
  (StepSound.emptyArrived ..).trans (.emptyArrived ..)

theorem StepSound.foldl {β : Type} (f : State → β → State) (hf : ∀ s b, StepSound s (f s b))
    (l : List β) (s : State) : StepSound s (l.foldl f s) := by
  induction l generalizing s with
  | nil => exact .refl s
  | cons b rest ih => exact (hf s b).trans (ih (f s b))

theorem StepSound.faultLane (c : FaultCause) (n : LaneId) (s : State) :
    StepSound s (faultLane c n s) :=
  ((StepSound.depart n s).trans (.breakBarriers ..)).trans
    ((StepSound.enterFault ..).trans (.foldl _ (fun t m => .enterFault _ m t) _ _))

/-! ### Releases, starts and retirements -/

/-- Start met is a mark in the ACTIVE slot. -/
theorem Lane.meetStart_queue (l : Lane) :
    l.meetStart.queue.awaiting = l.queue.awaiting ∧ l.meetStart.queue.slots = l.queue.slots := by
  refine ⟨rfl, ?_⟩
  cases h : l.queue.active <;> simp [Lane.meetStart, LaunchQueue.slots_eq, h]

theorem Lane.releaseBetween_queue (l : Lane) :
    l.releaseBetween.queue.awaiting = l.queue.awaiting ∧
      l.releaseBetween.queue.slots = l.queue.slots := by
  unfold Lane.releaseBetween
  split
  case h_2 => exact l.meetStart_queue
  all_goals exact ⟨rfl, rfl⟩

theorem StepSound.releaseGroup (g : GroupId) (b : Bool) (s : State) :
    StepSound s (releaseGroup g b s).1 := by
  have offered : StepSound s _ :=
    (StepSound.groups s (s.groups.set g { s.group g with
      arrived := 0, count := (s.group g).count + 1 })).trans
      (.offerInfo (.groupReleased g (s.group g).arrived ((s.group g).count + 1)) _)
  unfold Machine.releaseGroup
  dsimp only
  split
  · exact offered
  · refine offered.trans (.lanes fun n => ?_)
    rw [PerLane.get_build]
    split
    · obtain ⟨awaiting, slots⟩ := Lane.releaseBetween_queue (State.lane _ n)
      exact ⟨awaiting, slots.le⟩
    · exact ⟨rfl, le_rfl⟩

theorem StepSound.arrive (g : GroupId) (n : LaneId) (b : Bool) (s : State) :
    StepSound s (arrive g n b s).1 := by
  unfold Machine.arrive
  dsimp only
  split
  · exact (StepSound.groups ..).trans (.releaseGroup ..)
  · exact .groups ..

theorem StepSound.startNow (n : LaneId) (b : Bool) (s : State) :
    StepSound s (startNow n b s).1 := by
  unfold Machine.startNow
  split
  · exact .refl s
  · exact .setLane rfl (s.lane n).meetStart_queue.2.le

theorem StepSound.applyStart (n : LaneId) (c : StartCond) (b : Bool) (s : State) :
    StepSound s (applyStart n c b s).1 := by
  unfold Machine.applyStart
  split
  · exact .startNow ..
  · split
    · exact .refl s
    · exact .startNow ..
  · exact .refl s
  · split
    · exact .faultLane ..
    · split
      · exact .faultLane ..
      · exact .arrive ..

/-- The oldest PENDING slot becomes the ACTIVE one (R78). -/
theorem StepSound.activate (n : LaneId) (b : Bool) (s : State) : StepSound s (activate n b s).1 := by
  unfold Machine.activate
  dsimp only
  split
  · exact .refl s
  · next d rest hp =>
    refine (StepSound.setLane (l := (s.lane n).armedOn d rest) rfl ?_).trans (.applyStart ..)
    simp only [LaunchQueue.slots_eq, Lane.armedOn, hp, Option.toList_some, List.length_cons,
      List.length_nil]
    omega

theorem StepSound.retire (n : LaneId) (e : Ending) (b : Bool) (s : State) :
    StepSound s (retire n e b s).1 := by
  unfold Machine.retire
  dsimp only
  split
  · exact .refl s
  · next a ha =>
    have posted : StepSound s (postTerminal n a.desc
        (.done n a.desc.tag (doneFields (s.lane n) a e))
        (s.setLane n ((s.lane n).retired a.desc.rest))) := .postActive ha rfl ..
    split
    · exact posted.trans (.setLane_queue rfl)
    · exact posted.trans (.activate ..)

/-! ### Steps -/

theorem StepSound.endPass (n : LaneId) (s : State) : StepSound s (endPass n s).1 := by
  unfold Machine.endPass
  dsimp only
  split
  · exact .refl s
  · split
    · exact StepSound.of_setLane (.retire ..) rfl
    · split
      · exact StepSound.of_setLane (.retire ..) rfl
      · exact .setLane_queue rfl

/-- A pair of widths the hardware may hold can become the pending pair (R103, R104). -/
theorem Carrier.Ok.withPair {c : Carrier} (h : c.Ok) {p : WidthPair} (hp : p.Ok) :
    Carrier.Ok { c with pair := some p } := by
  obtain ⟨hu, -, hd, he⟩ := h
  exact ⟨hu, fun q hq => Option.some.inj hq ▸ hp, hd, he⟩

theorem State.CarriersOk.setCarrier {s : State} (h : s.CarriersOk) {x : CarrierId} {c : Carrier}
    (hc : c.Ok) : (s.setCarrier x c).CarriersOk := by
  intro y
  by_cases hy : y = x
  · subst hy
    rwa [State.carrier_setCarrier_self]
  · rw [State.carrier_setCarrier_ne _ _ hy]
    exact h y

theorem StepSound.setPendingPair (x : CarrierId) {p : WidthPair} (hp : p.Ok) (s : State) :
    StepSound s (setPendingPair x p s) :=
  ⟨fun hs => hs.of_same rfl rfl rfl rfl fun _ => rfl, fun _ => le_rfl,
    fun hs => hs.setCarrier ((hs x).withPair hp)⟩

/-- A word read as a step record holds a legal one (R11 to R16). -/
theorem decodeStep_legal {w : Word} {r : StepRecord} (h : decodeStep w = some r) :
    r.legal = true := by
  unfold decodeStep at h
  split at h
  case h_2 | h_4 | h_10 =>
    dsimp only at h
    split at h
    · cases h
    · cases h
      simp_all [StepRecord.legal]
  case h_3 =>
    obtain ⟨src, -, rfl⟩ := Option.map_eq_some_iff.1 h
    rfl
  all_goals cases h
  all_goals rfl

theorem StepSound.executeStep {r : StepRecord} (hr : r.legal = true) (n : LaneId) (a : Addr)
    (s : State) : StepSound s (executeStep n a r s).1 := by
  unfold Machine.executeStep
  dsimp only
  split
  · exact .setLane_queue rfl
  · exact .setLane_queue rfl
  · split <;> exact StepSound.of_setLane (.arrive ..) rfl
  · split
    · exact .setLane_queue rfl
    · exact .faultLane ..
  · split
    · split <;> exact .setLane_queue rfl
    · exact .faultLane ..
  · split
    · exact .setLane_queue rfl
    · exact .faultLane ..
  · split
    · exact .setLane_queue rfl
    · exact .faultLane ..
  · exact .refl s
  · exact .offerInfo ..
  · next x h w =>
    have widths : h ≠ 0 ∧ w ≠ 0 := of_decide_eq_true hr
    exact .setPendingPair (p := ⟨h, w⟩) x widths s
  · split
    · exact .endPass ..
    · exact .faultLane ..

theorem StepSound.budgetStep {r : StepRecord} (hr : r.legal = true) (n : LaneId) (a : Addr)
    (s : State) : StepSound s (budgetStep n a r s).1 := by
  unfold Machine.budgetStep
  split
  · split
    · exact .faultLane ..
    · exact StepSound.of_setLane (.executeStep hr ..) rfl
  · exact .executeStep hr ..

theorem StepSound.takeStep (n : LaneId) (a : Addr) (s : State) :
    StepSound s (takeStep n a s).1 := by
  have begun : StepSound s (s.setLane n ((s.lane n).beginStep a)) := .setLane_queue rfl
  unfold Machine.takeStep
  dsimp only
  split
  · exact begun.trans (.faultLane ..)
  · next r hr =>
    have legal := decodeStep_legal hr
    split
    · exact begun.trans (.retire ..)
    · split
      · split
        · exact begun.trans (.faultLane ..)
        · split
          · exact begun.trans (.faultLane ..)
          · exact begun.trans (.budgetStep legal ..)
      · exact begun.trans (.budgetStep legal ..)

theorem Lane.noteTick_queue (k : DividerSet) (l : Lane) : (l.noteTick k).queue = l.queue := by
  unfold Lane.noteTick
  split <;> rfl

theorem StepSound.doWork (w : Work) (s : State) : StepSound s (doWork w s).1 := by
  cases w with
  | step n a => exact .takeStep n a s
  | start n =>
    unfold Machine.doWork startLaunch
    dsimp only
    split
    · exact .refl s
    · next a ha =>
      refine .setLane rfl ?_
      simp [LaunchQueue.slots_eq, Lane.launched, ha]
  | released n =>
    unfold Machine.doWork stepReleased
    dsimp only
    split
    · refine .setLane_queue ?_
      dsimp only
      split
      · rfl
      · exact Lane.noteTick_queue ..
    · exact .setLane_queue rfl
    all_goals exact .refl s

theorem StepSound.runWork (k : Nat) (ws : List Work) (s : State) : StepSound s (runWork k ws s).1 :=
  runWork_keeps (P := StepSound s) (fun w t h => h.trans (.doWork w t)) k ws s (.refl s)

/-! ### A lane's own event -/

theorem StepSound.landSplice (n : LaneId) (s : State) : StepSound s (landSplice n s).1 :=
  (StepSound.depart n s).trans (.retire ..)

theorem StepSound.expireWait (n : LaneId) (s : State) : StepSound s (expireWait n s).1 := by
  have left : StepSound s (Machine.depart n
      (s.setLane n { s.lane n with waitSource := none, waitSatisfied := false })) :=
    StepSound.of_setLane (.depart ..) rfl
  unfold Machine.expireWait
  dsimp only
  split
  · exact left.trans (.faultLane ..)
  · split
    · exact left.trans (.offerInfo ..)
    · exact left

theorem StepSound.armedBoundary (n : LaneId) (s : State) : StepSound s (armedBoundary n s).1 := by
  unfold Machine.armedBoundary
  split
  · exact .landSplice ..
  · split <;> exact .refl _

theorem StepSound.waitingBoundary (n : LaneId) (s : State) :
    StepSound s (waitingBoundary n s).1 := by
  unfold Machine.waitingBoundary
  dsimp only
  split
  · exact .landSplice ..
  · split
    · exact .setLane_queue rfl
    · split
      · exact .refl _
      · split
        · exact StepSound.of_setLane (.expireWait ..) rfl
        · exact .setLane_queue rfl

theorem StepSound.ownActions (n : LaneId) (s : State) : StepSound s (ownActions n s).1 := by
  have taken : StepSound s (s.setLane n ((s.lane n).takeBoundary s.tb.handedSet)) :=
    .setLane_queue (Lane.noteTick_queue ..)
  unfold Machine.ownActions
  dsimp only
  split
  · exact .setLane_queue rfl
  · split
    · exact taken
    · split
      · exact taken.trans (.armedBoundary ..)
      · exact taken.trans (.setLane_queue rfl)
      · exact taken.trans (.waitingBoundary ..)
      all_goals exact taken

theorem StepSound.laneEvent {n : LaneId} {s t : State} (h : laneEvent n s = .next t) :
    StepSound s t := by
  obtain ⟨-, rfl⟩ := laneEvent_next h
  exact ((StepSound.ownActions n s).trans (.runWork ..)).trans (.settle ..)

end Sys2Proof.Machine
end

/-! ## What a command can do, said once for every command (R162 to R169) -/

section
namespace Sys2Proof.Machine

/-- What a command that answers a next state does: a host word has its effect at a register or at the
port, an event has its own, and a command that is not due, or that a deaf port does not hear, does
nothing. -/
inductive CommandEffect (s : State) : State → Prop where
  | nothing : CommandEffect s s
  | written (i : Index) (r : Reg) (w : Word) :
    CommandEffect s (writeReg r w (s.advanceFrame .write i))
  | laneCommanded (op : BitVec 4) (lane : BitVec 3) :
    CommandEffect s (writeLaneCmd op lane (s.advanceFrame .write Reg.laneCmd.index))
  | unmapped (i : Index) : CommandEffect s ((s.advanceFrame .write i).portError .badIndex i)
  | wordRead (i : Index) : CommandEffect s (readAt i (s.advanceFrame .read i))
  | frameHeld (h : s.port.rstnLow = true) :
    CommandEffect s { s with port := { s.port with csnLow := true } }
  | frameBegun (h : s.port.rstnLow = false) :
    CommandEffect s
      { s with port := { s.port with csnLow := true, frame := some ⟨s.statusByte, none, none⟩ } }
  | frameCut (cut : Cut) : CommandEffect s (endCutFrame (cutWord cut s))
  | frameEnded : CommandEffect s (endCutFrame s)
  | poweredUp (m : Pmem) : CommandEffect s { hardReset s with pmem := m, init := some 0 }
  | released :
    CommandEffect s
      { hardReset s with init := none, port := { (hardReset s).port with rstnLow := false } }
  | held :
    CommandEffect s
      { s with
        tb := { s.tb with tick := { s.tb.tick with count := 0 } }
        port := { s.port with rstnLow := true, frame := none } }
  | cleared (m : Pmem) (i : Option Nat) : CommandEffect s { s with pmem := m, init := i }
  | laneActed {n : LaneId} {t : State} (h : laneEvent n s = .next t) : CommandEffect s t
  | tickEnded : CommandEffect s (tickEnds (boundaryEdge s))
  | edge : CommandEffect s (tickEdge (monitorEdge s))
  | locked (h : s.tb.state = .qualifying ∨ s.tb.state = .requalifying) :
    CommandEffect s (lockNow s)
  | lossDetected : CommandEffect s (settle s (detectLoss s))
  | highPhaseEnded (x : CarrierId) (he : (s.carrier x).enable = true) :
    CommandEffect s (endHighPhase x s)
  | periodEnded (x : CarrierId) (he : (s.carrier x).enable = true) :
    CommandEffect s (endPeriod x s)
  | pinChanged (i : LineId) (v : Level) :
    CommandEffect s (s.setInput i { s.input i with pin := v })
  | sampled (i : LineId) : CommandEffect s (takeSample i s)

/-- A data word does nothing at a deaf port, and else has its effect behind its frame's advance. -/
theorem CommandEffect.hostWord {s : State} {d : Direction} {i : Index} {f : State → State}
    (h : CommandEffect s (f (s.advanceFrame d i))) : CommandEffect s (hostWord d i f s) := by
  unfold Machine.hostWord
  split
  · exact h
  · exact .nothing

theorem CommandEffect.unlessHeld {s : State} {f : State → State} (h : CommandEffect s (f s)) :
    CommandEffect s (unlessHeld f s) := by
  unfold Machine.unlessHeld
  split
  · exact .nothing
  · exact h

theorem CommandEffect.writeAt {s : State} (i : Index) (w : Word) :
    CommandEffect s (writeAt i w (s.advanceFrame .write i)) := by
  unfold Machine.writeAt
  split
  · exact .written ..
  · exact .unmapped i

/-- A LANE_CMD command is the write of its op code (R169). -/
theorem CommandEffect.laneCommand {s : State} {op : LaneId → State → State} {code : BitVec 4}
    {lane : BitVec 3}
    (h : ∀ u : State, u.initBusy = false →
      writeLaneCmd code lane u = Machine.laneCommand op lane u) :
    CommandEffect s
      (Machine.laneCommand op lane (s.advanceFrame .write Reg.laneCmd.index)) := by
  have same (u : State) : Machine.laneCommand op lane u = writeLaneCmd code lane u := by
    by_cases hb : u.initBusy = true
    · rw [laneCommand_of_busy hb]
      simp [writeLaneCmd, hb]
    · exact (h u (by simpa using hb)).symm
  rw [same]
  exact .laneCommanded ..

/-- A lane's own event does nothing where it is not due. -/
theorem CommandEffect.ifDue {n : LaneId} {b : Prop} [Decidable b] {s t : State}
    (h : (if b then .next s else laneEvent n s) = .next t) : CommandEffect s t := by
  split at h
  · cases h
    exact .nothing
  · exact .laneActed h

/-- What a command does, by its row of the table. -/
theorem exec_effect {c : Instr} {s t : State} (h : exec c s = .next t) : CommandEffect s t := by
  cases c with
  | por => cases h; exact .poweredUp _
  | initClear =>
    simp only [exec, execInitClear] at h
    split at h <;> cases h
    · exact .nothing
    · exact .cleared ..
  | rstnAssert => cases h; exact .held
  | rstnReset => cases h; exact .released
  | frameStart =>
    simp only [exec, execFrameStart] at h
    split at h
    · next hr => cases h; exact .frameHeld hr
    · next hr => cases h; exact .frameBegun (by simpa using hr)
  | frameEnd => cases h; exact .frameEnded
  | shortFrame cut =>
    simp only [exec, execShortFrame] at h
    split at h <;> cases h
    · exact .frameCut cut
    · exact .frameEnded
  | badIndex dir i w =>
    cases dir with
    | read => cases h; exact .hostWord (.wordRead i)
    | write => cases h; exact .hostWord (.writeAt i w)
  | readOnlyWrite i w => cases h; exact .hostWord (.writeAt i w)
  | registerWrite i w => cases h; exact .hostWord (.writeAt i w)
  | pmemDataWrite w => cases h; exact .hostWord (.written _ .pmemData w)
  | pmemDataRead => cases h; exact .hostWord (.wordRead 0x11)
  | tbTrim w => cases h; exact .hostWord (.written _ .tbTrim w)
  | intStatus w => cases h; exact .hostWord (.written _ .intStatus w)
  | intEnable w => cases h; exact .hostWord (.written _ .intEnable w)
  | laneCfg n w => cases h; exact .hostWord (.written _ (.laneCfg n) w)
  | groupMembers g w => cases h; exact .hostWord (.written _ (.groupMembers g) w)
  | carCtrl x w => cases h; exact .hostWord (.written _ (.carCtrl x) w)
  | carWidth x w => cases h; exact .hostWord (.written _ (.carWidth x) w)
  | inCfg i w => cases h; exact .hostWord (.written _ (.inCfg i) w)
  | capqStatus w => cases h; exact .hostWord (.written _ .capqStatus w)
  | capqPop w => cases h; exact .hostWord (.written _ .capqPop w)
  | evqPop w => cases h; exact .hostWord (.written _ .evqPop w)
  | softReset => cases h; exact .hostWord (.written _ .globalCmd 1)
  | tbUseInternal => cases h; exact .hostWord (.written _ .globalCmd 2)
  | tbUseExternal => cases h; exact .hostWord (.written _ .globalCmd 3)
  | tbRearm => cases h; exact .hostWord (.written _ .globalCmd 4)
  | capqFlush => cases h; exact .hostWord (.written _ .globalCmd 5)
  | submit lane =>
    cases h
    exact .hostWord (.laneCommand (code := 1) fun u hu => by simp [writeLaneCmd, hu])
  | stopAtEnd lane =>
    cases h
    exact .hostWord (.laneCommand (code := 2) fun u hu => by simp [writeLaneCmd, hu])
  | splice lane =>
    cases h
    exact .hostWord (.laneCommand (code := 3) fun u hu => by simp [writeLaneCmd, hu])
  | abort lane =>
    cases h
    exact .hostWord (.laneCommand (code := 4) fun u hu => by simp [writeLaneCmd, hu])
  | clearFault lane =>
    cases h
    exact .hostWord (.laneCommand (code := 5) fun u hu => by simp [writeLaneCmd, hu])
  | laneCmdBadCommand op lane => cases h; exact .hostWord (.laneCommanded op lane)
  | laneBoundary n => exact .ifDue h
  | holdEnd n => exact .ifDue h
  | timeoutExpiry n => exact .ifDue h
  | waitSatisfied n => exact .ifDue h
  | launchStart n => exact .ifDue h
  | spliceLanding n => exact .ifDue h
  | tickBoundary => cases h; exact .unlessHeld .tickEnded
  | refinEdge => cases h; exact .unlessHeld .edge
  | lock =>
    cases h
    refine .unlessHeld ?_
    split
    · next hq => exact .locked hq
    · exact .nothing
  | lossDetected => cases h; exact .unlessHeld .lossDetected
  | highPhaseEnd x =>
    cases h
    refine .unlessHeld ?_
    split
    · next due => exact .highPhaseEnded x due.1
    · exact .nothing
  | periodEnd x =>
    cases h
    refine .unlessHeld ?_
    split
    · next due => exact .periodEnded x due.1
    · exact .nothing
  | inPinChange i v => cases h; exact .pinChanged i v
  | sample i => cases h; exact .unlessHeld (.sampled i)

/-- A step has the effect of the command at the front of the queue, or is the clock's. -/
theorem step_effect {s t : State} (h : step s = .next t) :
    (∃ c rest, s.pending = c :: rest ∧ CommandEffect { s with pending := rest } t) ∨
      t = clockStep s := by
  unfold step at h
  split at h
  · next c rest hp => exact .inl ⟨c, rest, hp, exec_effect h⟩
  · cases h
    exact .inr rfl

/-- A GLOBAL_CMD write is refused or is one of its five commands (R168). -/
theorem writeGlobalCmd_cases {P : State → Prop} {s : State} (w : Word)
    (refused : ∀ r, P (s.report r Reg.globalCmd.index)) (softReset : P (softResetAll s))
    (useInternal : P (useInternal s)) (useExternal : P (useExternal s)) (rearm : P (rearm s))
    (flush : P (flushCapture s)) : P (writeGlobalCmd w s) := by
  unfold writeGlobalCmd
  split
  · exact refused _
  · split
    · exact softReset
    · exact useInternal
    · exact useExternal
    · exact rearm
    · exact flush
    · exact refused _

/-- A LANE_CMD write is refused or is one of its five commands at a lane (R169). -/
theorem writeLaneCmd_cases {P : State → Prop} {s : State} (op : BitVec 4) (lane : BitVec 3)
    (refused : ∀ r, P (s.report r Reg.laneCmd.index)) (submit : ∀ n, P (submitTo n s))
    (stop : ∀ n, P (stopAtEnd n s)) (splice : ∀ n, P (spliceLane n s))
    (abort : ∀ n, P (abortLane n s)) (clear : ∀ n, P (clearFaultOf n s)) :
    P (writeLaneCmd op lane s) := by
  have atLane {f : LaneId → State → State} (hf : ∀ n, P (f n s)) : P (laneCommand f lane s) := by
    unfold laneCommand
    split
    · exact refused _
    · split
      · exact refused _
      · exact hf _
  unfold writeLaneCmd
  split
  · exact refused _
  · split
    · exact atLane submit
    · exact atLane stop
    · exact atLane splice
    · exact atLane abort
    · exact atLane clear
    · exact refused _

end Sys2Proof.Machine
end

/-! ## Every step keeps the queues and the carriers (R37, R73, R97, R99, R102, R148, R152) -/

section
namespace Sys2Proof.Machine

/-- A change of neither the queues, the lanes, the pending TIMEBASE record nor the carriers. -/
theorem StepSound.of_same {s t : State} (evq : t.evq = s.evq) (record : t.tb.record = s.tb.record)
    (records : t.capq.records = s.capq.records) (lanes : t.lanes = s.lanes)
    (carriers : t.carriers = s.carriers) : StepSound s t := by
  have lane (n : LaneId) : t.lane n = s.lane n := by rw [State.lane, lanes, State.lane]
  refine ⟨fun hs => hs.of_same (by rw [evq]) (by rw [evq]) record records fun n => by rw [lane],
    fun n => by rw [lane], fun hs x => ?_⟩
  rw [State.carrier, carriers]
  exact hs x

/-- An operation behind a change of the TBU but for its pending record. -/
theorem StepSound.of_tb {s t : State} {v : Timebase} (k : StepSound { s with tb := v } t)
    (h : v.record = s.tb.record) : StepSound s t :=
  (StepSound.of_same (s := s) (t := { s with tb := v }) rfl h rfl rfl rfl).trans k

/-! ### The carriers -/

theorem WidthPair.Ok.pos {p : WidthPair} (h : p.Ok) : 0 < p.high.toNat ∧ 0 < p.low.toNat := by
  obtain ⟨hh, hl⟩ := h
  exact ⟨Nat.pos_of_ne_zero fun h => hh (BitVec.eq_of_toNat_eq h),
    Nat.pos_of_ne_zero fun h => hl (BitVec.eq_of_toNat_eq h)⟩

/-- The pair a period begins with is one the hardware may hold (R101, R102). -/
theorem Carrier.Ok.nextPair {c : Carrier} (h : c.Ok) : (c.pair.getD c.inUse).Ok := by
  obtain ⟨hu, hp, -⟩ := h
  cases hc : c.pair with
  | none => exact hu
  | some p => exact hp p hc

/-- A phase of an enabled generator that begins, HIGH or LOW (R101, R102). -/
theorem Carrier.Ok.beginPhase {c : Carrier} (hu : c.inUse.Ok) (hp : ∀ p, c.pair = some p → p.Ok)
    (he : c.enable = true) (hc : c.count = 0) (hs : c.sub = 0) : c.Ok := by
  refine ⟨hu, hp, fun h => absurd (h.symm.trans he) Bool.false_ne_true, fun _ => ⟨?_, ?_⟩⟩
  · rw [hc, Carrier.width]
    split
    · exact hu.pos.1
    · exact hu.pos.2
  · rw [hs, Carrier.p]
    exact Nat.succ_pos _

/-- A generator at rest, at any prescale (R100, R105). -/
theorem Carrier.Ok.rest {c : Carrier} (hu : c.inUse.Ok) (hp : ∀ p, c.pair = some p → p.Ok)
    (he : c.enable = false) (hr : c.phase = .low ∧ c.count = 0 ∧ c.sub = 0) : c.Ok :=
  ⟨hu, hp, fun _ => hr, fun h => absurd (he.symm.trans h) Bool.false_ne_true⟩

/-- A generator over one IOSC period in which no phase ends (R99). -/
theorem Carrier.Ok.tick {c : Carrier} (h : c.Ok) : c.tick.Ok := by
  obtain ⟨hu, hp, hd, he⟩ := h
  by_cases still : c.enable = false ∨ c.phaseDue = true
  · rw [Carrier.tick_still still]
    exact ⟨hu, hp, hd, he⟩
  · have on : c.enable = true := by simpa using (not_or.1 still).1
    have notDue : ¬ c.phaseDue = true := (not_or.1 still).2
    obtain ⟨hcount, hsub⟩ := he on
    rw [Carrier.tick, if_neg still]
    split
    · next hclock =>
      have room : c.count + 1 < c.width := by
        simp only [Carrier.phaseDue, on, hclock, decide_true, Bool.true_and, decide_eq_true_eq]
          at notDue
        omega
      exact ⟨hu, hp, fun h => absurd (h.symm.trans on) Bool.false_ne_true,
        fun _ => ⟨room, Nat.succ_pos _⟩⟩
    · exact ⟨hu, hp, fun h => absurd (h.symm.trans on) Bool.false_ne_true,
        fun _ => ⟨hcount, by simp only [Carrier.p] at *; omega⟩⟩

/-- A change of one carrier, and of the lanes' gates with it. -/
theorem StepSound.setCarrier {s : State} {x : CarrierId} {c : Carrier} (hc : s.CarriersOk → c.Ok)
    {f : Lane → Lane} (hf : ∀ l, (f l).queue = l.queue) :
    StepSound s
      { s.setCarrier x c with lanes := PerLane.build fun n => f (s.lane n) } := by
  have queue (n : LaneId) :
      ((PerLane.build fun n => f (s.lane n)).get n).queue = (s.lane n).queue := by
    rw [PerLane.get_build, hf]
  exact ⟨fun hs => hs.of_same rfl rfl rfl rfl fun n => congrArg _ (queue n),
    fun n => (congrArg LaunchQueue.slots (queue n)).le, fun hs => hs.setCarrier (hc hs)⟩

theorem Lane.openGate_queue (x : CarrierId) (l : Lane) : (l.openGate x).queue = l.queue := by
  unfold Lane.openGate
  split <;> rfl

theorem Lane.endTrail_queue (x : CarrierId) (l : Lane) : (l.endTrail x).queue = l.queue := by
  unfold Lane.endTrail
  split <;> rfl

theorem Lane.shutGate_queue (x : CarrierId) (l : Lane) : (l.shutGate x).queue = l.queue := by
  unfold Lane.shutGate
  split <;> rfl

theorem StepSound.enableCarrier (x : CarrierId) (p : BitVec 4) (s : State) :
    StepSound s (enableCarrier x p s) := by
  refine .setCarrier (fun hs => ?_) (Lane.openGate_queue x)
  exact .beginPhase (hs x).nextPair (fun _ h => nomatch h) rfl rfl rfl

theorem StepSound.disableCarrier (x : CarrierId) (s : State) :
    StepSound s (disableCarrier x s) := by
  refine .setCarrier (f := fun l => (l.shutGate x).endTrail x) (fun hs => ?_)
    fun l => (Lane.endTrail_queue ..).trans (Lane.shutGate_queue ..)
  obtain ⟨hu, hp, -⟩ := hs x
  exact .rest hu hp rfl ⟨rfl, rfl, rfl⟩

theorem StepSound.endHighPhase {x : CarrierId} {s : State} (he : (s.carrier x).enable = true) :
    StepSound s (endHighPhase x s) := by
  refine .setCarrier (fun hs => ?_) (Lane.endTrail_queue x)
  obtain ⟨hu, hp, -⟩ := hs x
  exact .beginPhase hu hp he rfl rfl

theorem StepSound.endPeriod {x : CarrierId} {s : State} (he : (s.carrier x).enable = true) :
    StepSound s (endPeriod x s) := by
  refine .setCarrier (fun hs => ?_) (Lane.openGate_queue x)
  exact .beginPhase (hs x).nextPair (fun _ h => nomatch h) he rfl rfl

/-! ### The lane commands -/

theorem StepSound.report (s : State) (r : Result) (i : Index) : StepSound s (s.report r i) :=
  .of_same rfl rfl rfl rfl rfl

theorem StepSound.portError (s : State) (c : PortCause) (i : Index) :
    StepSound s (s.portError c i) :=
  .of_same rfl rfl rfl rfl rfl

theorem StepSound.advanceFrame (s : State) (d : Direction) (i : Index) :
    StepSound s (s.advanceFrame d i) :=
  .of_same rfl rfl rfl rfl rfl

/-- A slot SUBMIT takes is within the four of its lane's queue (R73, R76). -/
theorem submitTo_queuesOk (n : LaneId) {s : State} (hs : s.QueuesOk) : (submitTo n s).QueuesOk := by
  unfold submitTo
  split
  · exact (StepSound.report ..).queuesOk hs
  · next d hd =>
    have room : (s.lane n).queue.slots < 4 := by
      unfold checkSubmit at hd
      split at hd
      · cases hd
      · split at hd
        · cases hd
        · omega
    obtain ⟨agree, slots⟩ := s.queuesOk_iff.1 hs
    have queued : (s.setLane n { s.lane n with queue := { (s.lane n).queue with
        pending := (s.lane n).queue.pending ++ [d] } }).QueuesOk := by
      refine (State.queuesOk_iff _).2 ⟨agree.of_same rfl rfl rfl rfl fun m => ?_, fun m => ?_⟩
      · by_cases hm : m = n
        · subst hm
          rw [State.lane_setLane_self]
        · rw [State.lane_setLane_ne _ _ hm]
      · by_cases hm : m = n
        · subst hm
          rw [State.lane_setLane_self]
          simp only [LaunchQueue.slots_eq, List.length_append, List.length_singleton] at *
          omega
        · rw [State.lane_setLane_ne _ _ hm]
          exact slots m
    have reported := (StepSound.report _ .ok Reg.laneCmd.index).queuesOk queued
    dsimp only
    split
    · exact ((StepSound.activate ..).trans (.settle ..)).queuesOk reported
    · exact reported

/-- SUBMIT changes no carrier's bounds: what it activates runs no step (R77). -/
theorem submitTo_carriersOk (n : LaneId) {s : State} (hs : s.CarriersOk) :
    (submitTo n s).CarriersOk := by
  unfold submitTo
  split
  · exact hs
  · dsimp only
    split
    · exact ((StepSound.activate ..).trans (.settle ..)).carriers hs
    · exact hs

theorem StepSound.stopAtEnd (n : LaneId) (s : State) : StepSound s (stopAtEnd n s) := by
  unfold Machine.stopAtEnd
  dsimp only
  split
  · exact .report ..
  · exact .report ..
  · exact .of_setLane (.report ..) rfl
  · exact .of_setLane (.report ..) rfl
  · exact (((StepSound.depart n s).trans (.retire ..)).trans (.report ..)).trans (.settle ..)

theorem StepSound.spliceLane (n : LaneId) (s : State) : StepSound s (spliceLane n s) := by
  unfold Machine.spliceLane
  dsimp only
  split
  · exact .report ..
  · exact .report ..
  · split
    · exact .of_setLane (.report ..) rfl
    · exact .report ..

/-- Each PENDING slot flushed takes at most one slot for its record (R93). -/
theorem Defers.flushPending (n : LaneId) (ds : List Descriptor) (s : State) :
    Defers n ds.length s (flushPending n ds s) := by
  unfold Machine.flushPending
  induction ds generalizing s with
  | nil => exact ⟨id, le_rfl, fun _ _ => le_rfl, id⟩
  | cons d rest ih =>
    have := (Defers.postTerminal n d (.aborted n d.tag 0 .flushed d.entry) s).trans (ih _)
    rwa [Nat.add_comm] at this

/-- ABORT lets go of a slot for every record it offers (R93). -/
theorem StepSound.abortLane (n : LaneId) (s : State) : StepSound s (abortLane n s) := by
  have flushed : StepSound s (Machine.flushPending n (s.lane n).queue.pending
      (match (s.lane n).queue.active with
        | none => (Machine.depart n s).setLane n (s.lane n).aborted
        | some a =>
          postTerminal n a.desc
            (.aborted n a.desc.tag (s.lane n).passesDone .hostAbort (s.lane n).stepAddr)
            ((Machine.depart n s).setLane n (s.lane n).aborted))) := by
    refine (StepSound.depart n s).trans ?_
    have same : (Machine.depart n s).lane n = s.lane n := rfl
    cases ha : (s.lane n).queue.active with
    | none =>
      refine .of_freed (l := (s.lane n).aborted) rfl ?_ (.flushPending ..)
      rw [same]
      simp [LaunchQueue.slots_eq, Lane.aborted, ha]
    | some a =>
      refine .of_freed (l := (s.lane n).aborted) rfl ?_
        ((Defers.postTerminal ..).trans (.flushPending ..))
      rw [same]
      simp [LaunchQueue.slots_eq, Lane.aborted, ha, Nat.add_assoc]
  exact (flushed.trans (.report ..)).trans (.settle ..)

theorem StepSound.clearFaultOf (n : LaneId) (s : State) : StepSound s (clearFaultOf n s) := by
  unfold Machine.clearFaultOf
  dsimp only
  split
  · exact .of_setLane (((StepSound.report ..).trans (.activate ..)).trans (.settle ..)) rfl
  · exact .report ..

/-! ### The resets and the register writes -/

/-- A lane with an empty queue agrees with an empty deferral list. -/
theorem StepSound.of_empty {s t : State} (evq : t.evq = resetEventQueue)
    (record : t.tb.record = none) (records : t.capq.records = [])
    (queue : ∀ n, (t.lane n).queue = ⟨[], none, []⟩)
    (carriers : s.CarriersOk → t.CarriersOk) : StepSound s t := by
  refine ⟨fun _ => ?_, fun n => ?_, carriers⟩
  · unfold State.QueuesAgree
    simp [evq, record, records, queue, resetEventQueue]
  · rw [queue]
    exact Nat.zero_le _

theorem StepSound.softResetAll (s : State) : StepSound s (softResetAll s) :=
  .of_empty rfl rfl rfl (fun n => congrArg Lane.queue (PerLane.get_build _ n)) id

theorem StepSound.hardReset (s : State) : StepSound s (hardReset s) := by
  obtain ⟨-, -, lanes, -, carriers, -⟩ := hardReset_atReset s
  refine .of_empty rfl rfl rfl (fun n => by rw [lanes]) fun _ x => ?_
  rw [carriers]
  simp [Carrier.Ok, WidthPair.Ok]

theorem State.lane_setLane (s : State) (n m : LaneId) (l : Lane) :
    (s.setLane n l).lane m = if m = n then l else s.lane m := by
  by_cases hm : m = n
  · rw [if_pos hm, hm, s.lane_setLane_self]
  · rw [if_neg hm, s.lane_setLane_ne l hm]

/-- A queue one record short of full where an entry waits agrees again behind the placement: the
entry goes with the record its source lets go of (R152, R154). -/
theorem placeDeferred_agree {s : State} (len : s.evq.placed.length ≤ 31)
    (short : s.evq.deferral ≠ [] → s.evq.placed.length = 31)
    (awaiting : ∀ n, (s.lane n).queue.awaiting.length = s.evq.deferral.count (.lane n))
    (record : s.evq.deferral.count .timebase = if s.tb.record.isSome then 1 else 0)
    (capq : s.capq.records.length ≤ 32) : (placeDeferred s).QueuesAgree := by
  unfold placeDeferred
  split
  · next hd => exact ⟨Nat.le_succ_of_le len, fun hne => absurd hd hne, awaiting, record, capq⟩
  · next n more hd =>
    have full : s.evq.placed.length = 31 := short (by rw [hd]; exact nofun)
    rw [hd] at awaiting record
    dsimp only
    split
    · next hw =>
      have := awaiting n
      rw [hw] at this
      simp at this
    · next held waits hw =>
      refine ⟨by simp [full], fun _ => by simp [full], fun m => ?_, Eq.trans (by simp) record, capq⟩
      have count := awaiting m
      change ((s.setLane n _).lane m).queue.awaiting.length = more.count (.lane m)
      rw [State.lane_setLane]
      split
      · next hm => simpa [hm, hw] using count
      · next hm => simpa [Ne.symm hm] using count
  · next more hd =>
    have full : s.evq.placed.length = 31 := short (by rw [hd]; exact nofun)
    rw [hd] at awaiting record
    split
    · next hr => simp [hr] at record
    · next b hr =>
      refine ⟨by simp [full], fun _ => by simp [full], fun m => (awaiting m).trans (by simp), ?_,
        capq⟩
      simpa [hr] using record

theorem placeDeferred_slots (s : State) (n : LaneId) :
    ((placeDeferred s).lane n).queue.slots ≤ (s.lane n).queue.slots := by
  unfold placeDeferred
  split
  · exact le_rfl
  · next m more _ =>
    dsimp only
    split
    · exact le_rfl
    · next held waits hw =>
      change ((s.setLane m _).lane n).queue.slots ≤ _
      rw [State.lane_setLane]
      split
      · next hm => simp [hm, LaunchQueue.slots_eq, hw]
      · exact le_rfl
  · split <;> exact le_rfl

theorem placeDeferred_carriers (s : State) : (placeDeferred s).carriers = s.carriers := by
  unfold placeDeferred
  split
  · rfl
  · dsimp only
    split <;> rfl
  · split <;> rfl

theorem StepSound.popEvent (s : State) : StepSound s (popEvent s) := by
  unfold Machine.popEvent
  split
  · exact .report ..
  · next r rest h =>
    refine StepSound.trans (t := placeDeferred { s with evq := { s.evq with placed := rest } })
      ⟨fun ⟨hp, hd, ha, ht, hc⟩ => ?_, placeDeferred_slots _, fun hs x => ?_⟩ (.report ..)
    · rw [h, List.length_cons] at hp hd
      exact placeDeferred_agree (Nat.le_of_succ_le_succ hp) (fun hne => Nat.succ.inj (hd hne)) ha ht
        hc
    · rw [State.carrier, placeDeferred_carriers]
      exact hs x

theorem StepSound.popCapture (s : State) : StepSound s (popCapture s) := by
  unfold Machine.popCapture
  split
  · exact .report ..
  · next r rest h =>
    refine ⟨fun ⟨hp, hd, ha, ht, hc⟩ => ⟨hp, hd, ha, ht, ?_⟩, fun _ => le_rfl, id⟩
    rw [h, List.length_cons] at hc
    exact Nat.le_of_succ_le hc

theorem StepSound.flushCapture (s : State) : StepSound s (flushCapture s) :=
  ⟨fun ⟨hp, hd, ha, ht, _⟩ => ⟨hp, hd, ha, ht, Nat.zero_le _⟩, fun _ => le_rfl, id⟩

theorem StepSound.useInternal (s : State) : StepSound s (useInternal s) := by
  unfold Machine.useInternal
  dsimp only
  split <;> exact .of_same rfl rfl rfl rfl rfl

theorem StepSound.useExternal (s : State) : StepSound s (useExternal s) := by
  unfold Machine.useExternal
  dsimp only
  split <;> exact .of_same rfl rfl rfl rfl rfl

theorem StepSound.rearm (s : State) : StepSound s (rearm s) := by
  unfold Machine.rearm
  split <;> exact .of_same rfl rfl rfl rfl rfl

theorem StepSound.writeGlobalCmd (w : Word) (s : State) : StepSound s (writeGlobalCmd w s) :=
  writeGlobalCmd_cases w (fun _ => .report ..) (.softResetAll s) (.useInternal s)
    (.useExternal s) (.rearm s) (.flushCapture s)

theorem StepSound.writePmem (w : Word) (s : State) : StepSound s (writePmem w s) := by
  unfold Machine.writePmem
  split
  · exact .portError ..
  · have queue (n : LaneId) :
        ((PerLane.build fun n => (s.lane n).keepWord s.ptr.addr (s.pmem.read s.ptr.addr)).get
          n).queue = (s.lane n).queue := by
      rw [PerLane.get_build, Lane.keepWord_queue]
    exact ⟨fun hs => hs.of_same rfl rfl rfl rfl fun n => congrArg _ (queue n),
      fun n => (congrArg LaunchQueue.slots (queue n)).le, id⟩

theorem StepSound.writeLaneCfg (n : LaneId) (w : Word) (s : State) :
    StepSound s (writeLaneCfg n w s) := by
  unfold Machine.writeLaneCfg
  dsimp only
  split
  · exact .report ..
  · exact .report ..
  · exact .report ..
  all_goals
    split
    · exact .report ..
    · exact .of_setLane (.report ..) rfl

theorem StepSound.writeMembers (g : GroupId) (w : Word) (s : State) :
    StepSound s (writeMembers g w s) := by
  unfold Machine.writeMembers
  split
  · exact (StepSound.groups ..).trans (.report ..)
  · exact .report ..

theorem StepSound.writeCarCtrl (x : CarrierId) (w : Word) (s : State) :
    StepSound s (writeCarCtrl x w s) := by
  unfold Machine.writeCarCtrl
  dsimp only
  split
  · split
    · refine StepSound.trans ?_ (.report ..)
      split
      · exact .refl s
      · exact .disableCarrier x s
    · exact .report ..
  · next off =>
    refine StepSound.trans ?_ (.report ..)
    split
    · exact .enableCarrier ..
    · have off : (s.carrier x).enable = false := by simpa using off
      refine ⟨fun hs => hs.of_same rfl rfl rfl rfl fun _ => rfl, fun _ => le_rfl,
        fun hs => hs.setCarrier ?_⟩
      obtain ⟨hu, hp, hd, -⟩ := hs x
      exact .rest hu hp off (hd off)

theorem StepSound.writeCarWidth (x : CarrierId) (w : Word) (s : State) :
    StepSound s (writeCarWidth x w s) := by
  unfold Machine.writeCarWidth
  dsimp only
  split
  · exact .report ..
  · next h => exact (StepSound.setPendingPair x (not_or.1 h) s).trans (.report ..)

theorem StepSound.writeInCfg (i : LineId) (w : Word) (s : State) :
    StepSound s (writeInCfg i w s) := by
  unfold Machine.writeInCfg
  dsimp only
  split <;> exact .of_same rfl rfl rfl rfl rfl

/-- A write at any register but LANE_CMD keeps the queues and the carriers. -/
theorem StepSound.writeReg {r : Reg} (hr : r ≠ .laneCmd) (w : Word) (s : State) :
    StepSound s (writeReg r w s) := by
  cases r with
  | laneCmd => exact absurd rfl hr
  | globalCmd => exact .writeGlobalCmd ..
  | pmemData => exact .writePmem ..
  | tbDiv d => cases d <;> exact .of_same rfl rfl rfl rfl rfl
  | groupMembers g => exact .writeMembers ..
  | carCtrl x => exact .writeCarCtrl ..
  | carWidth x => exact .writeCarWidth ..
  | inCfg i => exact .writeInCfg ..
  | capqPop => exact .popCapture s
  | evqPop => exact .popEvent s
  | laneCfg n => exact .writeLaneCfg ..
  | _ => exact .of_same rfl rfl rfl rfl rfl

theorem StepSound.readAt (i : Index) (s : State) : StepSound s (readAt i s) := by
  unfold Machine.readAt
  split
  · exact .of_same rfl rfl rfl rfl rfl
  · unfold readPmem
    split <;> exact .of_same rfl rfl rfl rfl rfl
  · exact .of_same rfl rfl rfl rfl rfl

theorem StepSound.cutWord (cut : Cut) (s : State) : StepSound s (cutWord cut s) := by
  unfold Machine.cutWord
  split
  · exact .portError ..
  · exact .portError ..
  · split
    · exact (StepSound.portError ..).trans (.portError ..)
    · split
      · exact (StepSound.portError ..).trans (.portError ..)
      · exact .portError ..
    · exact .portError ..

/-! ### The events of the timebase and the lines -/

/-- The TBU holds a record exactly while an entry waits for it (R37, R152). -/
theorem StepSound.recordTimebase (st : TbState) (loss lock : Bool) (s : State) :
    StepSound s (recordTimebase st loss lock s) := by
  rcases recordTimebase_cases st loss lock s with
    ⟨r, r', hr, h⟩ | ⟨r, -, hp, h⟩ | ⟨r, hr, hp, h⟩ <;> rw [h]
  · refine ⟨fun ⟨hp, hd, ha, ht, hc⟩ => ⟨hp, hd, ha, ?_, hc⟩, fun _ => le_rfl, id⟩
    rw [hr] at ht
    exact ht
  · exact ⟨fun hs => hs.place hp _, fun _ => le_rfl, id⟩
  · refine ⟨fun hs => ?_, fun _ => le_rfl, id⟩
    have full := hs.full hp
    obtain ⟨-, -, ha, ht, hc⟩ := hs
    rw [hr] at ht
    exact ⟨full.le, fun _ => full, fun n => (ha n).trans (by simp), by simpa using ht, hc⟩

theorem StepSound.lockNow (s : State) : StepSound s (lockNow s) :=
  StepSound.of_tb (.recordTimebase ..) rfl

theorem StepSound.monitorEdge (s : State) : StepSound s (monitorEdge s) := by
  have counted : StepSound s (if 4096 ≤ s.tb.qual + 1 then Machine.lockNow s
      else { s with tb := { s.tb with qual := s.tb.qual + 1, window := 0 } }) := by
    split
    · exact .lockNow s
    · exact .of_same rfl rfl rfl rfl rfl
  unfold Machine.monitorEdge
  split
  · exact counted
  · exact counted
  · exact .of_same rfl rfl rfl rfl rfl
  · exact .refl s
  · exact .refl s

theorem Timebase.boundary_record (t : Timebase) : t.boundary.record = t.record := by
  unfold Timebase.boundary Timebase.switched
  dsimp only
  split <;> rfl

theorem StepSound.tickEnds (s : State) : StepSound s (tickEnds s) := by
  have queue (n : LaneId) : ((Machine.tickEnds s).lane n).queue = (s.lane n).queue := by
    rw [State.lane, Machine.tickEnds, PerLane.get_build]
  exact ⟨fun hs => hs.of_same rfl rfl s.tb.boundary_record rfl fun n => congrArg _ (queue n),
    fun n => (congrArg LaunchQueue.slots (queue n)).le, id⟩

theorem StepSound.tickEdge (s : State) : StepSound s (tickEdge s) := by
  unfold Machine.tickEdge
  split
  · split
    · exact .tickEnds s
    · exact .of_same rfl rfl rfl rfl rfl
  · exact .refl s

theorem StepSound.boundaryEdge (s : State) : StepSound s (boundaryEdge s) := by
  unfold Machine.boundaryEdge
  split
  · exact .of_same rfl rfl rfl rfl rfl
  · exact .refl s

theorem StepSound.faultForLoss (s : State) : StepSound s (faultForLoss s) := by
  unfold Machine.faultForLoss
  refine ((StepSound.foldl _ (fun t n => .depart n t) _ s).trans (.breakBarriers ..)).trans
    (.foldl _ (fun t n => ?_) _ _)
  split
  · exact .enterFault ..
  · split
    · exact .enterFault ..
    · exact .refl t

theorem StepSound.detectLoss (s : State) : StepSound s (detectLoss s) := by
  unfold Machine.detectLoss
  split
  · exact .of_same rfl rfl rfl rfl rfl
  · exact .of_same rfl rfl rfl rfl rfl
  · exact StepSound.of_tb ((StepSound.faultForLoss _).trans (.recordTimebase ..)) rfl
  · exact .refl s
  · exact .refl s

theorem Lane.trigger_queue (i : LineId) (l : Lane) :
    (l.trigger i).queue.awaiting = l.queue.awaiting ∧
      (l.trigger i).queue.slots = l.queue.slots := by
  unfold Lane.trigger
  split
  · split <;> exact ⟨rfl, rfl⟩
  · next ha =>
    split
    · exact ⟨rfl, by simp [LaunchQueue.slots_eq, ha]⟩
    · exact ⟨rfl, rfl⟩
  · exact ⟨rfl, rfl⟩

theorem StepSound.deliverTrigger (i : LineId) (s : State) : StepSound s (deliverTrigger i s) := by
  refine .lanes fun n => ?_
  rw [PerLane.get_build]
  obtain ⟨awaiting, slots⟩ := (s.lane n).trigger_queue i
  exact ⟨awaiting, slots.le⟩

/-- A capture record is stored only where there is room (R138). -/
theorem StepSound.offerCapture (r : CaptureRecord) (s : State) :
    StepSound s (offerCapture r s) := by
  rcases offerCapture_cases r s with ⟨room, h⟩ | ⟨-, h⟩ <;> rw [h]
  · refine ⟨fun ⟨hp, hd, ha, ht, _⟩ => ⟨hp, hd, ha, ht, ?_⟩, fun _ => le_rfl, id⟩
    simpa using room
  · exact .of_same rfl rfl rfl rfl rfl

theorem StepSound.acceptEdge (i : LineId) (e : Edge) (s : State) :
    StepSound s (acceptEdge i e s) := by
  have triggered : StepSound s
      (if (s.input i).trigger.holds e then Machine.deliverTrigger i s else s) := by
    split
    · exact .deliverTrigger i s
    · exact .refl s
  unfold Machine.acceptEdge
  dsimp only
  split
  · exact triggered.trans (.offerCapture ..)
  · exact triggered

theorem StepSound.setInput (i : LineId) (l : InputLine) (s : State) :
    StepSound s (s.setInput i l) :=
  .of_same rfl rfl rfl rfl rfl

theorem StepSound.takeSample (i : LineId) (s : State) : StepSound s (takeSample i s) := by
  unfold Machine.takeSample
  dsimp only
  split
  · split
    · exact .setInput ..
    · split
      · exact (StepSound.setInput ..).trans (.acceptEdge ..)
      · exact .setInput ..
  · split <;> exact .setInput ..

/-! ### Every step -/

/-- The clock moves the carriers within their bounds, and nothing of the queues. -/
theorem StepSound.clockStep (s : State) : StepSound s (clockStep s) := by
  unfold Machine.clockStep countPeriod
  dsimp only
  split
  · split
    · exact .of_same rfl rfl rfl rfl rfl
    · refine ⟨fun hs => hs.of_same rfl rfl rfl rfl fun _ => rfl, fun _ => le_rfl, fun hs x => ?_⟩
      rw [State.carrier, PerCarrier.get_build]
      exact (hs x).tick
  · exact .of_same rfl rfl rfl rfl rfl

/-- Every effect of a command but that of LANE_CMD keeps the queues and the carriers; SUBMIT alone
takes a slot, and has checked that there is one. -/
theorem CommandEffect.sound {s t : State} (h : CommandEffect s t) :
    (s.QueuesOk → t.QueuesOk) ∧ (s.CarriersOk → t.CarriersOk) := by
  have keeps {t : State} (h : StepSound s t) :
      (s.QueuesOk → t.QueuesOk) ∧ (s.CarriersOk → t.CarriersOk) := ⟨h.queuesOk, h.carriers⟩
  have laneCmd (op : BitVec 4) (lane : BitVec 3) (u : State) (hu : StepSound s u) :
      (s.QueuesOk → (writeLaneCmd op lane u).QueuesOk) ∧
        (s.CarriersOk → (writeLaneCmd op lane u).CarriersOk) := by
    refine writeLaneCmd_cases
      (P := fun t => (s.QueuesOk → t.QueuesOk) ∧ (s.CarriersOk → t.CarriersOk)) op lane
      (fun _ => keeps (hu.trans (.report ..)))
      (fun n => ⟨fun hs => submitTo_queuesOk n (hu.queuesOk hs),
        fun hs => submitTo_carriersOk n (hu.carriers hs)⟩)
      (fun _ => keeps (hu.trans (.stopAtEnd ..))) (fun _ => keeps (hu.trans (.spliceLane ..)))
      (fun _ => keeps (hu.trans (.abortLane ..))) (fun _ => keeps (hu.trans (.clearFaultOf ..)))
  cases h with
  | nothing => exact keeps (.refl s)
  | written i r w =>
    by_cases hr : r = .laneCmd
    · subst hr
      exact laneCmd _ _ _ (.advanceFrame ..)
    · exact keeps ((StepSound.advanceFrame ..).trans (.writeReg hr ..))
  | laneCommanded op lane => exact laneCmd op lane _ (.advanceFrame ..)
  | unmapped i => exact keeps ((StepSound.advanceFrame ..).trans (.portError ..))
  | wordRead i => exact keeps ((StepSound.advanceFrame ..).trans (.readAt ..))
  | frameCut cut => exact keeps ((StepSound.cutWord cut s).trans (.of_same rfl rfl rfl rfl rfl))
  | poweredUp m => exact keeps ((StepSound.hardReset s).trans (.of_same rfl rfl rfl rfl rfl))
  | released => exact keeps ((StepSound.hardReset s).trans (.of_same rfl rfl rfl rfl rfl))
  | laneActed h => exact keeps (.laneEvent h)
  | tickEnded => exact keeps ((StepSound.boundaryEdge s).trans (.tickEnds _))
  | edge => exact keeps ((StepSound.monitorEdge s).trans (.tickEdge _))
  | locked => exact keeps (.lockNow s)
  | lossDetected => exact keeps ((StepSound.detectLoss s).trans (.settle ..))
  | highPhaseEnded x he => exact keeps (.endHighPhase he)
  | periodEnded x he => exact keeps (.endPeriod he)
  | pinChanged i v => exact keeps (.setInput ..)
  | sampled i => exact keeps (.takeSample i s)
  | frameHeld | frameBegun | frameEnded | held | cleared =>
    exact keeps (.of_same rfl rfl rfl rfl rfl)

theorem step_sound {s t : State} (h : step s = .next t) :
    (s.QueuesOk → t.QueuesOk) ∧ (s.CarriersOk → t.CarriersOk) := by
  rcases step_effect h with ⟨c, rest, -, effect⟩ | rfl
  · exact effect.sound
  · exact ⟨(StepSound.clockStep s).queuesOk, (StepSound.clockStep s).carriers⟩

/-- Settles O57: an event lets go of a slot for every terminal record it offers, an entry of the
deferral list stands for a record a source holds, and SUBMIT takes a slot only of a queue with room. -/
theorem stepsKeepTheQueues : Obligations.StepsKeepTheQueues :=
  fun _ _ hs h => (step_sound h).1 hs

end Sys2Proof.Machine
end

/-! ## Every step keeps the timebase, the lines and the port (R23, R32, R33, R126, R162, R166) -/

section
namespace Sys2Proof.Machine

/-! ### The timebase -/

theorem Divider.total_pos (d : Divider) : 0 < d.total := by
  refine Nat.mul_pos (Nat.two_pow_pos _) ?_
  unfold Divider.divisor
  split
  · decide
  · next h => exact Nat.pos_of_ne_zero fun h0 => h (BitVec.eq_of_toNat_eq h0)

/-- The window timer set to 0 is within its end, and at rest (R32). -/
theorem Timebase.Ok.resetWindow {t : Timebase} (h : t.Ok) :
    Timebase.Ok { t with window := 0 } := by
  obtain ⟨-, -, hrest, hq, he, hc, hr, hs⟩ := h
  exact ⟨Nat.zero_lt_succ 255, fun _ => rfl, hrest, hq, he, hc, hr, hs⟩

/-- A tick latched from the state in force has all its base periods ahead (R23). -/
theorem Timebase.latch_ok (t : Timebase) :
    t.latch.count < t.latch.div.total ∧
      (t.latch.source = .refin → t.state = .external ∧ t.latch.set = .external) := by
  unfold Timebase.latch
  split
  · next h => exact ⟨Divider.total_pos _, fun _ => ⟨h, rfl⟩⟩
  all_goals exact ⟨Divider.total_pos _, fun h => nomatch h⟩

/-- A tick boundary, with the internal switch if one is requested (R25, R29). -/
theorem Timebase.Ok.boundary {t : Timebase} (h : t.Ok) : t.boundary.Ok := by
  obtain ⟨hw, hm, hrest, hq, he, -, -, hs⟩ := h
  unfold Timebase.boundary Timebase.switched
  dsimp only
  split
  · obtain ⟨count, source⟩ := Timebase.latch_ok { t with
      handedSet := t.tick.set, time := t.time + 1, state := .internal, switchReq := false
      window := 0, qual := 0 }
    exact ⟨Nat.zero_lt_succ 255, fun _ => rfl, fun _ => rfl, fun _ => Nat.zero_lt_succ 4095,
      fun h => absurd h nofun, count, source, fun h => absurd h Bool.false_ne_true⟩
  · obtain ⟨count, source⟩ := Timebase.latch_ok { t with
      handedSet := t.tick.set, time := t.time + 1 }
    exact ⟨hw, hm, hrest, hq, he, count, source, hs⟩

/-- Qualification begins, or begins again, with the count at 0: the tick is no REFIN tick outside
EXTERNAL, and no switch is requested in INTERNAL (R28, R30, R32). -/
theorem Timebase.Ok.qualify {t : Timebase} (h : t.Ok) {st : TbState}
    (hst : st = .qualifying ∨ st = .requalifying) (hne : t.state ≠ .external) :
    Timebase.Ok { t with state := st, qual := 0, window := 0 } := by
  obtain ⟨-, -, -, -, -, hc, hr, -⟩ := h
  have ne : st ≠ .external ∧ st ≠ .internal := by rcases hst with rfl | rfl <;> decide
  exact ⟨Nat.zero_lt_succ 255, fun _ => rfl, fun _ => rfl, fun _ => Nat.zero_lt_succ 4095,
    fun h => absurd h ne.1, hc, fun h => absurd (hr h).1 hne, fun _ => ne.2⟩

/-- The lock (R33, R34). -/
theorem Timebase.Ok.lock {t : Timebase} (h : t.Ok) :
    Timebase.Ok { t with state := .external, qual := 4096, window := 0 } := by
  obtain ⟨-, -, -, -, -, hc, hr, -⟩ := h
  exact ⟨Nat.zero_lt_succ 255, fun _ => rfl, fun h => h.elim nofun nofun,
    fun h => h.elim nofun nofun, fun _ => rfl, hc, fun h => ⟨rfl, (hr h).2⟩, fun _ => nofun⟩

/-- A REFIN edge that does not complete qualification (R33). -/
theorem Timebase.Ok.countEdge {t : Timebase} (h : t.Ok)
    (hst : t.state = .qualifying ∨ t.state = .requalifying) (hlt : t.qual + 1 < 4096) :
    Timebase.Ok { t with qual := t.qual + 1, window := 0 } := by
  obtain ⟨-, -, -, -, -, hc, hr, hs⟩ := h
  refine ⟨Nat.zero_lt_succ 255, fun _ => rfl, fun h => ?_, fun _ => hlt, fun h => ?_, hc, hr, hs⟩
  · rcases hst with hst | hst <;> rcases h with h | h <;> cases hst.symm.trans h
  · rcases hst with hst | hst <;> cases hst.symm.trans h

/-- A loss in EXTERNAL: the tick in progress becomes a whole IOSC tick (R35). -/
theorem Timebase.Ok.lose {t : Timebase} :
    Timebase.Ok { t with
      state := t.afterLoss, qual := 0, window := 0, tick := ⟨.iosc, .holdover, t.divHold, 0⟩ } := by
  have ne : t.afterLoss ≠ .external ∧ t.afterLoss ≠ .internal := by
    unfold Timebase.afterLoss
    split <;> decide
  exact ⟨Nat.zero_lt_succ 255, fun _ => rfl, fun _ => rfl, fun _ => Nat.zero_lt_succ 4095,
    fun h => absurd h ne.1, Divider.total_pos _, nofun, fun _ => ne.2⟩

/-- The tick in progress at any count within it (R23, R27). -/
theorem Timebase.Ok.tickCount {t : Timebase} (h : t.Ok) {k : Nat} (hk : k < t.tick.div.total) :
    Timebase.Ok { t with tick := { t.tick with count := k } } := by
  obtain ⟨hw, hm, hrest, hq, he, -, hr, hs⟩ := h
  exact ⟨hw, hm, hrest, hq, he, hk, hr, hs⟩

/-- One IOSC period counts in the tick and in the window, where neither ends with it (R23, R32). -/
theorem Timebase.Ok.periodPasses {t : Timebase} (h : t.Ok) : t.periodPasses.Ok := by
  obtain ⟨hw, hm, hrest, hq, he, hc, hr, hs⟩ := h
  refine ⟨?_, fun hoff => ?_, hrest, hq, he, ?_, ?_, hs⟩
  · unfold Timebase.periodPasses
    dsimp only
    split
    · next due =>
      have := (not_congr t.lossDue_iff).1 (by rw [due.2]; exact Bool.false_ne_true)
      have := not_and.1 this due.1
      omega
    · exact hw
  · unfold Timebase.periodPasses at hoff ⊢
    dsimp only at hoff ⊢
    rw [if_neg fun due => Bool.false_ne_true (hoff.symm.trans due.1)]
    exact hm hoff
  · unfold Timebase.periodPasses
    dsimp only
    split
    · next due =>
      have := (not_congr t.tickDue_iff).1 (by rw [due.2]; exact Bool.false_ne_true)
      have := not_and.1 this due.1
      dsimp only
      omega
    · exact hc
  · unfold Timebase.periodPasses
    dsimp only
    split <;> exact hr

/-! ### The port -/

/-- What an operation keeps of the timebase, the lines and the port. -/
structure UnitsSound (s t : State) : Prop where
  tb : s.tb.Ok → t.tb.Ok
  inputs : (∀ i, (s.input i).Ok) → ∀ i, (t.input i).Ok
  port : s.PortOk → t.PortOk

theorem UnitsSound.refl (s : State) : UnitsSound s s := ⟨id, id, id⟩

theorem UnitsSound.trans {s t u : State} (h : UnitsSound s t) (k : UnitsSound t u) :
    UnitsSound s u :=
  ⟨k.tb ∘ h.tb, k.inputs ∘ h.inputs, k.port ∘ h.port⟩

/-- A run of lane work touches none of the three. -/
theorem RunKeeps.unitsSound {s t : State} (h : RunKeeps s t) : UnitsSound s t := by
  refine ⟨fun hs => h.tb ▸ hs, fun hs i => ?_, fun hs => ?_⟩
  · rw [State.input, h.inputs]
    exact hs i
  · unfold State.PortOk
    rw [h.port, h.portError]
    exact hs

/-- A change of the TBU alone. -/
theorem UnitsSound.of_tb {s : State} {v : Timebase} (h : s.tb.Ok → v.Ok) :
    UnitsSound s { s with tb := v } :=
  ⟨h, id, id⟩

/-- A change of no unit but the port, which keeps the frame in progress and the latched cause. -/
theorem UnitsSound.of_port {s t : State} (tb : t.tb = s.tb) (inputs : t.inputs = s.inputs)
    (port : s.PortOk → t.PortOk) : UnitsSound s t := by
  refine ⟨fun hs => tb ▸ hs, fun hs i => ?_, port⟩
  rw [State.input, inputs]
  exact hs i

theorem UnitsSound.report (s : State) (r : Result) (i : Index) : UnitsSound s (s.report r i) :=
  .of_port rfl rfl id

/-- A port error stands with the cause that raised it, or with the one latched before (R166). -/
theorem UnitsSound.portError (s : State) (c : PortCause) (i : Index) (hc : c ≠ .none) :
    UnitsSound s (s.portError c i) := by
  refine .of_port rfl rfl fun ⟨frame, latched⟩ => ⟨frame, fun _ => ?_⟩
  unfold State.portError
  dsimp only
  split
  · next h => exact latched h
  · exact hc

theorem UnitsSound.advanceFrame (s : State) (d : Direction) (i : Index) :
    UnitsSound s (s.advanceFrame d i) :=
  .of_port rfl rfl fun ⟨frame, latched⟩ =>
    ⟨fun h => frame (by rwa [State.advanceFrame_frame_isSome] at h), latched⟩

/-! ### The lane and global commands -/

theorem UnitsSound.submitTo (n : LaneId) (s : State) : UnitsSound s (submitTo n s) := by
  unfold Machine.submitTo
  split
  · exact .report ..
  · dsimp only
    split
    · exact ((RunKeeps.setLane ..).unitsSound.trans (.report ..)).trans
        ((RunKeeps.activate ..).trans (.settle ..)).unitsSound
    · exact (RunKeeps.setLane ..).unitsSound.trans (.report ..)

theorem UnitsSound.stopAtEnd (n : LaneId) (s : State) : UnitsSound s (stopAtEnd n s) := by
  unfold Machine.stopAtEnd
  dsimp only
  split
  · exact .report ..
  · exact .report ..
  · exact (RunKeeps.setLane ..).unitsSound.trans (.report ..)
  · exact (RunKeeps.setLane ..).unitsSound.trans (.report ..)
  · exact (((RunKeeps.depart n s).trans (.retire ..)).unitsSound.trans (.report ..)).trans
      (RunKeeps.settle ..).unitsSound

theorem UnitsSound.spliceLane (n : LaneId) (s : State) : UnitsSound s (spliceLane n s) := by
  unfold Machine.spliceLane
  dsimp only
  split
  · exact .report ..
  · exact .report ..
  · split
    · exact (RunKeeps.setLane ..).unitsSound.trans (.report ..)
    · exact .report ..

theorem UnitsSound.abortLane (n : LaneId) (s : State) : UnitsSound s (abortLane n s) := by
  have cleared : RunKeeps s ((depart n s).setLane n (s.lane n).aborted) :=
    (RunKeeps.depart n s).trans (.setLane ..)
  unfold Machine.abortLane
  dsimp only
  split
  · exact ((cleared.trans (.flushPending ..)).unitsSound.trans (.report ..)).trans
      (RunKeeps.settle ..).unitsSound
  · exact (((cleared.trans (.postTerminal ..)).trans (.flushPending ..)).unitsSound.trans
      (.report ..)).trans (RunKeeps.settle ..).unitsSound

theorem UnitsSound.clearFaultOf (n : LaneId) (s : State) : UnitsSound s (clearFaultOf n s) := by
  unfold Machine.clearFaultOf
  dsimp only
  split
  · exact ((RunKeeps.setLane ..).unitsSound.trans (.report ..)).trans
      ((RunKeeps.activate ..).trans (.settle ..)).unitsSound
  · exact .report ..

theorem UnitsSound.writeLaneCmd (op : BitVec 4) (lane : BitVec 3) (s : State) :
    UnitsSound s (writeLaneCmd op lane s) :=
  writeLaneCmd_cases op lane (fun _ => .report ..) (fun n => .submitTo n s)
    (fun n => .stopAtEnd n s) (fun n => .spliceLane n s) (fun n => .abortLane n s)
    fun n => .clearFaultOf n s

theorem UnitsSound.softResetAll (s : State) : UnitsSound s (softResetAll s) :=
  ⟨id, id, fun ⟨frame, _⟩ => ⟨frame, nofun⟩⟩

theorem UnitsSound.hardReset (s : State) : UnitsSound s (hardReset s) := by
  obtain ⟨-, -, -, -, -, -, inputs, -⟩ := hardReset_atReset s
  refine ⟨fun _ => ?_, fun _ i => ?_, fun _ => ⟨nofun, nofun⟩⟩
  · obtain ⟨reset, -⟩ := reset_unitsOk
    exact reset
  · rw [inputs]
    exact ⟨Nat.zero_lt_succ 1, Nat.zero_lt_succ 0⟩

/-- TB_USE_EXTERNAL begins qualification from INTERNAL (R28). -/
theorem UnitsSound.useExternal (s : State) : UnitsSound s (useExternal s) := by
  unfold Machine.useExternal
  dsimp only
  split
  · next h =>
    exact (UnitsSound.report ..).trans
      (.of_tb fun hs => hs.qualify (.inl rfl) (by rw [State.report_tb, h]; exact nofun))
  all_goals exact .report ..

/-- TB_USE_INTERNAL requests a switch outside INTERNAL (R29). -/
theorem UnitsSound.useInternal (s : State) : UnitsSound s (useInternal s) := by
  have requested (hne : s.tb.state ≠ .internal) :
      UnitsSound s { s.report .ok Reg.globalCmd.index with
        tb := { s.tb with switchReq := true } } := by
    refine (UnitsSound.report ..).trans (.of_tb fun hs => ?_)
    obtain ⟨hw, hm, hrest, hq, he, hc, hr, -⟩ := hs
    exact ⟨hw, hm, hrest, hq, he, hc, hr, fun _ => hne⟩
  unfold Machine.useInternal
  dsimp only
  split
  · exact .report ..
  all_goals next h => exact requested (by rw [h]; exact nofun)

/-- TB_REARM begins requalification from HOLDOVER (R30). -/
theorem UnitsSound.rearm (s : State) : UnitsSound s (rearm s) := by
  unfold Machine.rearm
  split
  · next h =>
    exact (UnitsSound.report ..).trans
      (.of_tb fun hs => hs.qualify (.inr rfl) (by rw [State.report_tb, h]; exact nofun))
  all_goals exact .report ..

theorem UnitsSound.writeGlobalCmd (w : Word) (s : State) : UnitsSound s (writeGlobalCmd w s) :=
  writeGlobalCmd_cases w (fun _ => .report ..) (.softResetAll s) (.useInternal s)
    (.useExternal s) (.rearm s) (.of_port rfl rfl id)

/-! ### The register writes and reads -/

theorem UnitsSound.setInput {i : LineId} {l : InputLine} {s : State}
    (h : (s.input i).Ok → l.Ok) : UnitsSound s (s.setInput i l) := by
  refine ⟨id, fun hs j => ?_, id⟩
  by_cases hj : j = i
  · subst hj
    rw [State.input_setInput_self]
    exact h (hs j)
  · rw [State.input_setInput_ne _ _ hj]
    exact hs j

/-- A new filter or divider restarts the run and the sample count (R131). -/
theorem UnitsSound.writeInCfg (i : LineId) (w : Word) (s : State) :
    UnitsSound s (writeInCfg i w s) := by
  unfold Machine.writeInCfg
  dsimp only
  split
  · next same =>
    refine .setInput fun ⟨run, count⟩ => ?_
    rw [same.1, same.2]
    exact ⟨run, count⟩
  · exact .setInput fun _ => ⟨Nat.succ_pos _, Nat.two_pow_pos _⟩

theorem UnitsSound.writeIntStatus (w : Word) (s : State) : UnitsSound s (writeIntStatus w s) :=
  .of_port rfl rfl fun ⟨frame, latched⟩ =>
    ⟨frame, fun h => latched (Bool.and_eq_true_iff.1 h).1⟩

theorem UnitsSound.writePmem (w : Word) (s : State) : UnitsSound s (writePmem w s) := by
  unfold Machine.writePmem
  split
  · exact .portError s _ _ nofun
  · exact .of_port rfl rfl id

theorem UnitsSound.writeLaneCfg (n : LaneId) (w : Word) (s : State) :
    UnitsSound s (writeLaneCfg n w s) := by
  unfold Machine.writeLaneCfg
  dsimp only
  split
  · exact .report ..
  · exact .report ..
  · exact .report ..
  all_goals split <;> exact .of_port rfl rfl id

theorem UnitsSound.writeMembers (g : GroupId) (w : Word) (s : State) :
    UnitsSound s (writeMembers g w s) := by
  unfold Machine.writeMembers
  split <;> exact .of_port rfl rfl id

theorem UnitsSound.writeCarCtrl (x : CarrierId) (w : Word) (s : State) :
    UnitsSound s (writeCarCtrl x w s) := by
  unfold Machine.writeCarCtrl
  dsimp only
  split
  · split
    · split <;> exact .of_port rfl rfl id
    · exact .report ..
  · split <;> exact .of_port rfl rfl id

theorem UnitsSound.writeCarWidth (x : CarrierId) (w : Word) (s : State) :
    UnitsSound s (writeCarWidth x w s) := by
  unfold Machine.writeCarWidth
  dsimp only
  split <;> exact .of_port rfl rfl id

theorem UnitsSound.popCapture (s : State) : UnitsSound s (popCapture s) := by
  unfold Machine.popCapture
  split <;> exact .of_port rfl rfl id

/-- The source of a placed record lets go of it, which the bounds of its unit do not see (R154). -/
theorem UnitsSound.placeDeferred (s : State) : UnitsSound s (placeDeferred s) := by
  unfold Machine.placeDeferred
  split
  · exact .refl s
  · dsimp only
    split <;> exact .of_port rfl rfl id
  · split <;> exact ⟨id, id, id⟩

theorem UnitsSound.popEvent (s : State) : UnitsSound s (popEvent s) := by
  unfold Machine.popEvent
  split
  · exact .report ..
  · next rest _ =>
    have popped : UnitsSound s { s with evq := { s.evq with placed := rest } } :=
      .of_port rfl rfl id
    exact (popped.trans (.placeDeferred _)).trans (.report ..)

theorem UnitsSound.writeReg (r : Reg) (w : Word) (s : State) : UnitsSound s (writeReg r w s) := by
  cases r with
  | globalCmd => exact .writeGlobalCmd ..
  | laneCmd => exact .writeLaneCmd ..
  | intStatus => exact .writeIntStatus w s
  | tbDiv d => cases d <;> exact ⟨id, id, id⟩
  | tbCtrl | tbTrim => exact ⟨id, id, id⟩
  | pmemData => exact .writePmem w s
  | groupMembers g => exact .writeMembers ..
  | carCtrl x => exact .writeCarCtrl ..
  | carWidth x => exact .writeCarWidth ..
  | inCfg i => exact .writeInCfg ..
  | capqPop => exact .popCapture s
  | evqPop => exact .popEvent s
  | laneCfg n => exact .writeLaneCfg ..
  | intEnable | pmemPtr | lqDesc0 | lqDesc1 | lqTime | capqStatus => exact .of_port rfl rfl id
  | _ => exact .portError s _ _ nofun

theorem UnitsSound.readAt (i : Index) (s : State) : UnitsSound s (readAt i s) := by
  have read (u : State) (w : Word) :
      UnitsSound u { u with port := { u.port with lastRead := some w } } := .of_port rfl rfl id
  unfold Machine.readAt
  split
  · exact (UnitsSound.portError s .badIndex i nofun).trans (read _ 0)
  · unfold readPmem
    split
    · exact (UnitsSound.portError s .initAccess _ nofun).trans (read _ 0)
    · exact .of_port rfl rfl id
  · exact read s _

theorem UnitsSound.cutWord (cut : Cut) (s : State) : UnitsSound s (cutWord cut s) := by
  unfold Machine.cutWord
  split
  · exact .portError s _ _ nofun
  · exact .portError s _ _ nofun
  · split
    · exact (UnitsSound.portError s .badIndex _ nofun).trans (.portError _ _ _ nofun)
    · split
      · exact (UnitsSound.portError s .initAccess _ nofun).trans (.portError _ _ _ nofun)
      · exact .portError s _ _ nofun
    · exact .portError s _ _ nofun

/-- CSN has risen: no frame is in progress (R162). -/
theorem UnitsSound.endCutFrame (s : State) : UnitsSound s (endCutFrame s) :=
  .of_port rfl rfl fun ⟨_, latched⟩ => ⟨nofun, latched⟩

/-! ### The events of the timebase and the lines -/

theorem UnitsSound.recordTimebase (st : TbState) (loss lock : Bool) (s : State) :
    UnitsSound s (recordTimebase st loss lock s) := by
  rcases recordTimebase_cases st loss lock s with ⟨r, r', -, h⟩ | ⟨r, -, -, h⟩ | ⟨r, -, -, h⟩ <;>
    rw [h] <;> exact ⟨id, id, id⟩

theorem UnitsSound.lockNow (s : State) : UnitsSound s (lockNow s) :=
  (UnitsSound.of_tb fun hs => hs.lock).trans (.recordTimebase ..)

theorem UnitsSound.monitorEdge (s : State) : UnitsSound s (monitorEdge s) := by
  have counted (h : s.tb.state = .qualifying ∨ s.tb.state = .requalifying) :
      UnitsSound s (if 4096 ≤ s.tb.qual + 1 then Machine.lockNow s
        else { s with tb := { s.tb with qual := s.tb.qual + 1, window := 0 } }) := by
    split
    · exact .lockNow s
    · next hlt => exact .of_tb fun hs => hs.countEdge h (Nat.lt_of_not_le hlt)
  unfold Machine.monitorEdge
  split
  · next h => exact counted (.inl h)
  · next h => exact counted (.inr h)
  · exact .of_tb fun hs => hs.resetWindow
  · exact .refl s
  · exact .refl s

theorem UnitsSound.tickEnds (s : State) : UnitsSound s (tickEnds s) :=
  ⟨fun hs => hs.boundary, id, id⟩

theorem UnitsSound.tickEdge (s : State) : UnitsSound s (tickEdge s) := by
  unfold Machine.tickEdge
  split
  · split
    · exact .tickEnds s
    · next hlt => exact .of_tb fun hs => hs.tickCount (Nat.lt_of_not_le hlt)
  · exact .refl s

theorem UnitsSound.boundaryEdge (s : State) : UnitsSound s (boundaryEdge s) := by
  unfold Machine.boundaryEdge
  split
  · exact .of_tb fun hs => hs.resetWindow
  · exact .refl s

theorem UnitsSound.detectLoss (s : State) : UnitsSound s (detectLoss s) := by
  have restarts (h : s.tb.state = .qualifying ∨ s.tb.state = .requalifying) :
      UnitsSound s { s with tb := { s.tb with qual := 0, window := 0 } } :=
    .of_tb fun hs => hs.qualify h (by rcases h with h | h <;> rw [h] <;> exact nofun)
  unfold Machine.detectLoss
  split
  · next h => exact restarts (.inl h)
  · next h => exact restarts (.inr h)
  · exact ((UnitsSound.of_tb fun _ => Timebase.Ok.lose).trans
      (RunKeeps.faultForLoss _).unitsSound).trans (.recordTimebase ..)
  · exact .refl s
  · exact .refl s

theorem UnitsSound.acceptEdge (i : LineId) (e : Edge) (s : State) :
    UnitsSound s (acceptEdge i e s) := by
  have offered (r : CaptureRecord) (u : State) : UnitsSound u (offerCapture r u) := by
    rcases offerCapture_cases r u with ⟨-, h⟩ | ⟨-, h⟩ <;> rw [h] <;> exact .of_port rfl rfl id
  have triggered : UnitsSound s
      (if (s.input i).trigger.holds e then deliverTrigger i s else s) := by
    split
    · exact .of_port rfl rfl id
    · exact .refl s
  unfold Machine.acceptEdge
  dsimp only
  split
  · exact triggered.trans (offered ..)
  · exact triggered

/-- A sample restarts the sample count, and its run ends, or stays below F (R127, R128). -/
theorem UnitsSound.takeSample (i : LineId) (s : State) : UnitsSound s (takeSample i s) := by
  have ended : 0 < (s.input i).f := Nat.succ_pos _
  have due : 0 < 2 ^ (s.input i).divider.toNat := Nat.two_pow_pos _
  unfold Machine.takeSample
  dsimp only
  split
  · split
    · exact .setInput fun _ => ⟨ended, due⟩
    · split
      · exact (UnitsSound.setInput fun _ => ⟨ended, due⟩).trans (.acceptEdge ..)
      · next run => exact .setInput fun _ => ⟨Nat.lt_of_not_le run, due⟩
  · split
    · exact .setInput fun _ => ⟨ended, due⟩
    · next run => exact .setInput fun _ => ⟨Nat.lt_of_not_le run, due⟩

/-! ### Every step -/

theorem InputLine.Ok.tick {l : InputLine} (h : l.Ok) : l.tick.Ok := by
  obtain ⟨run, count⟩ := h
  unfold InputLine.tick
  split
  · exact ⟨run, count⟩
  · next due => exact ⟨run, Nat.lt_of_not_le ((not_congr l.sampleDue_iff).1 due)⟩

theorem UnitsSound.clockStep (s : State) : UnitsSound s (clockStep s) := by
  unfold Machine.clockStep countPeriod
  dsimp only
  split
  · split
    · exact .of_port rfl rfl id
    · refine ⟨fun hs => hs.periodPasses, fun hs i => ?_, id⟩
      rw [State.input, PerLine.get_build]
      exact (hs i).tick
  · exact .of_port rfl rfl id

theorem CommandEffect.unitsSound {s t : State} (h : CommandEffect s t) : UnitsSound s t := by
  cases h with
  | nothing => exact .refl s
  | written i r w => exact (UnitsSound.advanceFrame ..).trans (.writeReg ..)
  | laneCommanded op lane => exact (UnitsSound.advanceFrame ..).trans (.writeLaneCmd ..)
  | unmapped i => exact (UnitsSound.advanceFrame ..).trans (.portError _ _ _ nofun)
  | wordRead i => exact (UnitsSound.advanceFrame ..).trans (.readAt ..)
  | frameHeld hr =>
    refine .of_port rfl rfl fun ⟨frame, latched⟩ => ⟨fun h => ?_, latched⟩
    exact absurd ((frame h).2.symm.trans hr) Bool.false_ne_true
  | frameBegun hr => exact .of_port rfl rfl fun ⟨_, latched⟩ => ⟨fun _ => ⟨rfl, hr⟩, latched⟩
  | frameCut cut => exact (UnitsSound.cutWord cut s).trans (.endCutFrame _)
  | frameEnded => exact .endCutFrame s
  | poweredUp m =>
    obtain ⟨tb, inputs, port⟩ := UnitsSound.hardReset s
    exact ⟨tb, inputs, port⟩
  | released =>
    obtain ⟨tb, inputs, -⟩ := UnitsSound.hardReset s
    exact ⟨tb, inputs, fun _ => ⟨nofun, nofun⟩⟩
  | held =>
    exact ⟨fun hs => hs.tickCount (Divider.total_pos _), id, fun ⟨_, latched⟩ => ⟨nofun, latched⟩⟩
  | cleared m i => exact .of_port rfl rfl id
  | laneActed h => exact (RunKeeps.laneEvent h).unitsSound
  | tickEnded => exact (UnitsSound.boundaryEdge s).trans (.tickEnds _)
  | edge => exact (UnitsSound.monitorEdge s).trans (.tickEdge _)
  | locked => exact .lockNow s
  | lossDetected => exact (UnitsSound.detectLoss s).trans (RunKeeps.settle ..).unitsSound
  | highPhaseEnded | periodEnded => exact .of_port rfl rfl id
  | pinChanged i v => exact .setInput id
  | sampled i => exact .takeSample i s

theorem step_unitsSound {s t : State} (h : step s = .next t) : UnitsSound s t := by
  rcases step_effect h with ⟨c, rest, -, effect⟩ | rfl
  · obtain ⟨tb, inputs, port⟩ := effect.unitsSound
    exact ⟨tb, inputs, port⟩
  · exact .clockStep s

/-- Settles O60: every effect of a command and the clock keep the bounds of each unit; the carriers
are among what `step_sound` keeps. -/
theorem stepsKeepTheUnits : Obligations.StepsKeepTheUnits := by
  intro s t ⟨tb, carriers, inputs, port⟩ h
  have units := step_unitsSound h
  exact ⟨units.tb tb, (step_sound h).2 carriers, units.inputs inputs, units.port port⟩

end Sys2Proof.Machine
end

/-! ## The global commands and the setting writes (R20, R28 to R30, R142, R158, R159, R171) -/

section
namespace Sys2Proof.Machine

/-- Outside INIT a GLOBAL_CMD write of a defined op code is its command (R168). -/
theorem hostWord_globalCommand {s : State} (h : s.portListens = true) (hi : s.init = none)
    (op : State → State) :
    hostWord .write Reg.globalCmd.index (globalCommand op) s = op (s.wordAt .write 0x02) := by
  have idle : (s.wordAt .write 0x02).initBusy = false := by simp [State.initBusy, State.wordAt, hi]
  have asked : hostWord .write Reg.globalCmd.index (globalCommand op) s
      = globalCommand op (s.wordAt .write 0x02) := hostWord_of_listens h ..
  rw [asked, globalCommand, if_neg (Bool.eq_false_iff.1 idle)]

/-- Settles O8: the command's effect at every block, on the state behind its frame's advance. -/
theorem softResetKeepsConfiguration : Obligations.SoftResetKeepsConfiguration :=
  fun _ h hi => congrArg Host.Outcome.next (hostWord_globalCommand h hi softResetAll)

/-- Settles O18: each write is its register's, on the state behind its frame's advance. -/
theorem settingWrites : Obligations.SettingWrites := by
  intro w s h
  have written (i : Index) (f : State → State) :
      hostWord .write i f s = f (s.wordAt .write i) := hostWord_of_listens h ..
  have cleared (cause bit : Bool) : (cause && !bit) = if bit then false else cause := by
    cases bit <;> simp
  refine ⟨congrArg Host.Outcome.next (written 0x0D (writeTrim w)),
    congrArg Host.Outcome.next (written 0x06 (writeIntEnable w)),
    congrArg Host.Outcome.next (written 0x2B (writeThreshold w)), ?_⟩
  refine (congrArg Host.Outcome.next (written 0x05 (writeIntStatus w))).trans ?_
  simp only [writeIntStatus, cleared]
  rfl

/-! ### The timebase commands, by the state of the timebase -/

theorem useExternal_internal {s : State} (h : s.tb.state = .internal) :
    useExternal s =
      { s.report .ok Reg.globalCmd.index with
        tb := { s.tb with state := .qualifying, qual := 0, window := 0 } } := by
  simp only [useExternal, h]

theorem useExternal_other {s : State} (h : s.tb.state ≠ .internal) :
    useExternal s = s.report .ok Reg.globalCmd.index := by
  unfold useExternal
  dsimp only
  split
  · next hs => exact absurd hs h
  all_goals rfl

theorem useInternal_internal {s : State} (h : s.tb.state = .internal) :
    useInternal s = s.report .ok Reg.globalCmd.index := by
  simp only [useInternal, h]

theorem useInternal_other {s : State} (h : s.tb.state ≠ .internal) :
    useInternal s =
      { s.report .ok Reg.globalCmd.index with tb := { s.tb with switchReq := true } } := by
  unfold useInternal
  dsimp only
  split
  · next hs => exact absurd hs h
  all_goals rfl

theorem rearm_holdover {s : State} (h : s.tb.state = .holdover) :
    rearm s =
      { s.report .ok Reg.globalCmd.index with
        tb := { s.tb with state := .requalifying, qual := 0, window := 0 } } := by
  simp only [rearm, h]

theorem rearm_other {s : State} (h : s.tb.state ≠ .holdover) :
    rearm s = s.report .notInHoldover Reg.globalCmd.index := by
  unfold rearm
  split
  · next hs => exact absurd hs h
  all_goals rfl

/-- Settles O27: the three commands outside INIT, each in the state it acts in and in the others. -/
theorem timebaseCommands : Obligations.TimebaseCommands := by
  intro s h hi
  have command (op : State → State) :
      Host.Outcome.next (φ := Fault) (ρ := Refusal)
        (hostWord .write Reg.globalCmd.index (globalCommand op) s)
        = .next (op (s.wordAt .write 0x02)) := congrArg _ (hostWord_globalCommand h hi op)
  exact ⟨fun hs => (command _).trans (congrArg _ (useExternal_internal hs)),
    fun hs => (command _).trans (congrArg _ (useExternal_other hs)),
    fun hs => (command _).trans (congrArg _ (useInternal_internal hs)),
    fun hs => (command _).trans (congrArg _ (useInternal_other hs)),
    fun hs => (command _).trans (congrArg _ (rearm_holdover hs)),
    fun hs => (command _).trans (congrArg _ (rearm_other hs))⟩

end Sys2Proof.Machine
end

/-! ## The tick boundary, REFIN edges and the lock (R21, R23, R25, R29, R32 to R34) -/

section
namespace Sys2Proof.Machine

theorem boundaryEdge_tb (s : State) :
    boundaryEdge s =
      { s with
        tb := { s.tb with
          window :=
            if s.tb.tick.source = .refin ∧ s.tb.state = .external then 0 else s.tb.window } } := by
  unfold boundaryEdge
  split <;> rfl

/-- Settles O28: the boundary by whether a switch is requested, and the tick latched by the state
then in force. -/
theorem tickBoundaryEvent : Obligations.TickBoundaryEvent := by
  intro s hr
  dsimp only
  have taken : exec .tickBoundary s = .next (tickEnds (boundaryEdge s)) :=
    congrArg _ (unlessHeld_of_high hr _)
  rw [taken, boundaryEdge_tb]
  cases hs : s.tb.switchReq with
  | true => simp [tickEnds, Timebase.boundary, Timebase.switched, Timebase.latch, hs, State.lane]
  | false =>
    have latched : Timebase.boundary { s.tb with
          window := if s.tb.tick.source = .refin ∧ s.tb.state = .external then 0 else s.tb.window } =
        { s.tb with
          handedSet := s.tb.tick.set, time := s.tb.time + 1
          window := if s.tb.tick.source = .refin ∧ s.tb.state = .external then 0 else s.tb.window
          tick := s.tb.latch } := by
      simp [Timebase.boundary, Timebase.switched, Timebase.latch, hs]
    simp only [tickEnds, latched, Timebase.latch, Bool.false_eq_true, false_or, if_false]
    rw [← hs]
    rfl

/-! ### REFIN edges -/

theorem monitorEdge_stopped {s : State} (h : s.tb.state = .internal ∨ s.tb.state = .holdover) :
    monitorEdge s = s := by
  rcases h with h | h <;> simp only [monitorEdge, h]

theorem monitorEdge_counting {s : State}
    (h : s.tb.state = .qualifying ∨ s.tb.state = .requalifying) :
    monitorEdge s =
      if 4096 ≤ s.tb.qual + 1 then lockNow s
      else { s with tb := { s.tb with qual := s.tb.qual + 1, window := 0 } } := by
  rcases h with h | h <;> simp only [monitorEdge, h]

theorem monitorEdge_external {s : State} (h : s.tb.state = .external) :
    monitorEdge s = { s with tb := { s.tb with window := 0 } } := by
  simp only [monitorEdge, h]

/-- An edge counts in the tick in progress only if that is a REFIN tick of EXTERNAL (R21, R23). -/
theorem tickEdge_other {s : State} (h : s.tb.tick.source = .iosc ∨ s.tb.state ≠ .external) :
    tickEdge s = s := by
  unfold tickEdge
  split
  · next hs he =>
    rcases h with h | h
    · cases h.symm.trans hs
    · exact absurd he h
  · rfl

theorem tickEdge_counts {s : State} (hs : s.tb.tick.source = .refin) (he : s.tb.state = .external)
    (hlt : s.tb.tick.count + 1 < s.tb.tick.div.total) :
    tickEdge s =
      { s with tb := { s.tb with tick := { s.tb.tick with count := s.tb.tick.count + 1 } } } := by
  simp only [tickEdge, hs, he]
  exact if_neg (Nat.not_le.2 hlt)

theorem tickEdge_completes {s : State} (hs : s.tb.tick.source = .refin)
    (he : s.tb.state = .external) (hle : s.tb.tick.div.total ≤ s.tb.tick.count + 1) :
    tickEdge s = tickEnds s := by
  simp only [tickEdge, hs, he]
  exact if_pos hle

/-- Recording a loss or a lock leaves the tick in progress alone. -/
theorem recordTimebase_tick (st : TbState) (loss lock : Bool) (s : State) :
    (recordTimebase st loss lock s).tb.tick = s.tb.tick := by
  rcases recordTimebase_cases st loss lock s with ⟨r, r', -, h⟩ | ⟨r, -, -, h⟩ | ⟨r, -, -, h⟩ <;>
    rw [h]

theorem exec_refinEdge {s : State} (h : s.port.rstnLow = false) :
    exec .refinEdge s = .next (tickEdge (monitorEdge s)) :=
  congrArg _ (unlessHeld_of_high h _)

theorem exec_lock {s : State} (h : s.port.rstnLow = false) :
    exec .lock s =
      .next (if s.tb.state = .qualifying ∨ s.tb.state = .requalifying then lockNow s else s) :=
  congrArg _ (unlessHeld_of_high h _)

/-- Settles O29: the edge at the monitor, then at the tick in progress. -/
theorem refinEdgesAndLock : Obligations.RefinEdgesAndLock := by
  refine ⟨fun s hr => ⟨fun hs => ?_, fun hs hlt => ?_, fun hs heq hsrc => ?_, fun hs hsrc => ?_,
    fun hs hsrc hlt => ?_, fun hs hsrc hle => ?_⟩, fun s hr => ⟨fun hs => ?_, fun hs => ?_⟩⟩
  · have ne : s.tb.state ≠ .external := by rcases hs with hs | hs <;> rw [hs] <;> exact nofun
    rw [exec_refinEdge hr, monitorEdge_stopped hs, tickEdge_other (.inr ne)]
  · have ne : s.tb.state ≠ .external := by rcases hs with hs | hs <;> rw [hs] <;> exact nofun
    rw [exec_refinEdge hr, monitorEdge_counting hs, if_neg (Nat.not_le.2 hlt)]
    exact congrArg _ (tickEdge_other (.inr ne))
  · have iosc : (lockNow s).tb.tick.source = .iosc := by
      rw [lockNow, recordTimebase_tick]
      exact hsrc
    rw [exec_refinEdge hr, exec_lock hr, monitorEdge_counting hs, if_pos heq.ge, if_pos hs,
      tickEdge_other (.inl iosc)]
  · rw [exec_refinEdge hr, monitorEdge_external hs]
    exact congrArg _ (tickEdge_other (.inl hsrc))
  · rw [exec_refinEdge hr, monitorEdge_external hs]
    exact congrArg _ (tickEdge_counts hsrc hs hlt)
  · have boundary : exec .tickBoundary s = .next (tickEnds (boundaryEdge s)) :=
      congrArg _ (unlessHeld_of_high hr _)
    rw [boundary, boundaryEdge, if_pos ⟨hsrc, hs⟩, exec_refinEdge hr, monitorEdge_external hs]
    exact congrArg _ (tickEdge_completes hsrc hs hle)
  · rw [exec_lock hr, if_pos hs]
    rfl
  · rw [exec_lock hr, if_neg (by rcases hs with hs | hs | hs <;> rw [hs] <;> decide)]

end Sys2Proof.Machine
end

/-! ## Offers to the Event Queue and the order of deferral (R37, R38, R97, R149 to R152) -/

section
namespace Sys2Proof.Machine

theorem satSucc_byte (x : BitVec 8) : satSucc x = if x = 255 then 255 else x + 1 := by
  unfold satSucc
  split
  · next h =>
    rw [h]
    rfl
  · next h => exact (if_neg h).symm

/-- No record is placed where the queue is full or others wait (R149). -/
theorem EventQueue.canPlace_eq_false {q : EventQueue}
    (h : 32 ≤ q.placed.length ∨ q.deferral ≠ []) : q.canPlace = false := by
  refine Bool.eq_false_iff.2 fun hp => ?_
  obtain ⟨hlt, hd⟩ := q.canPlace_iff.1 hp
  rcases h with h | h
  · exact absurd hlt (Nat.not_lt.2 h)
  · exact h hd

/-- The queue with a record placed where none waits (R149, R150). -/
theorem EventQueue.place_of_empty {q : EventQueue} (h : q.deferral = []) (r : EventRecord) :
    q.place r = ⟨q.placed ++ [{ r with droppedBefore := q.dropped }], [], 0⟩ := by
  rw [EventQueue.place, h]

/-! ### The order of the entries of one event -/

/-- Entries in the order of R152. -/
def DeferralEntry.Sorted (l : List DeferralEntry) : Prop :=
  l.Pairwise fun d e => d.rank ≤ e.rank

theorem insertEntry_sorted (e : DeferralEntry) {l : List DeferralEntry}
    (h : DeferralEntry.Sorted l) : DeferralEntry.Sorted (insertEntry e l) := by
  unfold DeferralEntry.Sorted at *
  induction l with
  | nil => exact List.pairwise_singleton ..
  | cons x rest ih =>
    obtain ⟨hx, hrest⟩ := List.pairwise_cons.1 h
    rw [insertEntry]
    split
    · next hlt =>
      refine List.pairwise_cons.2 ⟨fun y hy => ?_, h⟩
      rcases List.mem_cons.1 hy with rfl | hy
      · exact hlt.le
      · exact hlt.le.trans (hx y hy)
    · next hle =>
      refine List.pairwise_cons.2 ⟨fun y hy => ?_, ih hrest⟩
      rcases List.mem_cons.1 ((insertEntry_perm e rest).mem_iff.1 hy) with rfl | hy
      · exact Nat.le_of_not_lt hle
      · exact hx y hy

theorem sortEntries_sorted (l : List DeferralEntry) : DeferralEntry.Sorted (sortEntries l) := by
  have fold (acc : List DeferralEntry) (h : DeferralEntry.Sorted acc) :
      DeferralEntry.Sorted (l.foldl (fun a e => insertEntry e a) acc) := by
    induction l generalizing acc with
    | nil => exact h
    | cons e rest ih => exact ih _ (insertEntry_sorted e h)
  exact fold [] List.Pairwise.nil

/-- An entry goes behind all of its rank or a lower one. -/
theorem insertEntry_last {e : DeferralEntry} {l : List DeferralEntry}
    (h : ∀ x ∈ l, x.rank ≤ e.rank) : insertEntry e l = l ++ [e] := by
  induction l with
  | nil => rfl
  | cons x rest ih =>
    obtain ⟨hx, hrest⟩ := List.forall_mem_cons.1 h
    rw [insertEntry, if_neg (Nat.not_lt.2 hx), ih hrest, List.cons_append]

/-- Entries offered in the order of R152 stay in it. -/
theorem sortEntries_of_sorted {l : List DeferralEntry} (h : DeferralEntry.Sorted l) :
    sortEntries l = l := by
  have fold (acc : List DeferralEntry) (h : DeferralEntry.Sorted (acc ++ l)) :
      l.foldl (fun a e => insertEntry e a) acc = acc ++ l := by
    induction l generalizing acc with
    | nil => exact (List.append_nil acc).symm
    | cons e rest ih =>
      obtain ⟨-, hrest, hcross⟩ := List.pairwise_append.1 h
      rw [List.foldl_cons, insertEntry_last fun x hx => hcross x hx e List.mem_cons_self,
        ih (List.pairwise_cons.1 hrest).2 _ (by simpa using h), List.append_assoc]
      rfl
  exact fold [] h

/-- Settles O25: the offers by whether there is room, and the entries of one event sorted. -/
theorem eventOffersAndDeferral : Obligations.EventOffersAndDeferral := by
  refine ⟨fun b s hlt hd => ?_, fun b s hfull => ?_, fun st loss lock r s hr => ?_,
    fun s t added h => ?_⟩
  · have room : s.evq.canPlace = true := s.evq.canPlace_iff.2 ⟨hlt, hd⟩
    refine ⟨?_, fun n d => ?_, fun st loss lock hr hb => ?_⟩
    · rw [offerInfo, if_pos room, EventQueue.place_of_empty hd]
    · rw [postTerminal, if_pos room, EventQueue.place_of_empty hd]
    · simp only [recordTimebase, hr, room, if_true, EventQueue.place_of_empty hd, hb,
        TimebaseRecord.event]
  · have full : s.evq.canPlace = false := EventQueue.canPlace_eq_false hfull
    refine ⟨?_, fun n d => ?_, fun st loss lock hr => ?_⟩
    · rw [offerInfo, if_neg (Bool.eq_false_iff.1 full), satSucc_byte]
    · rw [postTerminal, if_neg (Bool.eq_false_iff.1 full)]
    · simp only [recordTimebase, hr, full]
      rfl
  · have counted (b : Bool) (x : BitVec 8) :
        (if b then satSucc x else x) = if b = true ∧ x ≠ 255 then x + 1 else x := by
      cases b with
      | false => simp
      | true =>
        rw [if_pos rfl, satSucc_byte]
        by_cases hx : x = 255
        · rw [if_pos hx, if_neg fun h => h.2 hx, hx]
        · rw [if_neg hx, if_pos ⟨rfl, hx⟩]
    simp only [recordTimebase, hr, counted]
  · refine ⟨sortEntries added, ?_, sortEntries_perm added, (sortEntries_sorted added).imp ?_⟩
    · simp [settle, h]
    · intro d e hle
      cases d <;> cases e
      · exact hle
      · trivial
      · next n => exact absurd hle (Nat.not_le.2 (LaneId.num_lt n))
      · trivial

end Sys2Proof.Machine
end

/-! ## An accepted edge (R24, R54, R81, R132, R134, R136 to R139) -/

section
namespace Sys2Proof.Machine

/-- An edge set holds an edge, in the statement's words (R128). -/
theorem EdgeSet.holds_iff (w : EdgeSet) (e : Edge) :
    w.holds e = true ↔ w = .both ∨ (w = .rise ∧ e = .rise) ∨ (w = .fall ∧ e = .fall) := by
  cases w <;> cases e <;> decide

theorem Lane.trigger_waiting {i : LineId} {l : Lane} (hs : l.state = .waiting)
    (hw : l.waitSource = some (.line i)) : l.trigger i = { l with waitSatisfied := true } := by
  simp only [Lane.trigger, hs, hw, if_true]

theorem Lane.trigger_armed {i : LineId} {l : Lane} {a : Launch} (hs : l.state = .armed)
    (ha : l.queue.active = some a) (hst : a.desc.start = .onTrigger i) :
    l.trigger i =
      { l with queue := { l.queue with active := some { a with startMet := true } } } := by
  simp only [Lane.trigger, hs, ha, hst, if_true]

theorem Lane.trigger_other {i : LineId} {l : Lane}
    (hw : ¬(l.state = .waiting ∧ l.waitSource = some (.line i)))
    (ha : ¬(l.state = .armed ∧ ∃ a, l.queue.active = some a ∧ a.desc.start = .onTrigger i)) :
    l.trigger i = l := by
  unfold Lane.trigger
  split
  · next hs => exact if_neg fun h => hw ⟨hs, h⟩
  · next a hs hq => exact if_neg fun h => ha ⟨hs, a, hq, h⟩
  · rfl

/-- The phase is below the divisor, which is at most 256 (R24). -/
theorem Timebase.phase_toNat (t : Timebase) :
    t.phase.toNat = min (t.tick.count / 2 ^ t.tick.div.m.toNat) (t.tick.div.divisor - 1) := by
  have : t.tick.div.divisor ≤ 256 := by
    unfold Divider.divisor
    split
    · exact le_rfl
    · exact t.tick.div.n.isLt.le
  rw [Timebase.phase, BitVec.toNat_ofNat, Nat.mod_eq_of_lt (by omega)]

/-- A tag lane code of 6 or 7 names no lane, and any other names the lane of that number (R176). -/
theorem InputLine.tagLane_none {l : InputLine} (h : 6 ≤ l.tagCode.toNat) : l.tagLane = none := by
  have none_of (c : BitVec 3) : 6 ≤ c.toNat → LaneId.ofCode c = none := by revert c; decide
  exact none_of _ h

theorem InputLine.tagLane_some {l : InputLine} {n : LaneId} (h : l.tagCode.toNat = n.num) :
    l.tagLane = some n := by
  have some_of (c : BitVec 3) : c.toNat = n.num → LaneId.ofCode c = some n := by
    revert c
    cases n <;> decide
  exact some_of _ h

/-- An accepted edge, first as a trigger (R128 item 2). -/
def State.triggered (s : State) (i : LineId) (e : Edge) : State :=
  if (s.input i).trigger.holds e then deliverTrigger i s else s

theorem acceptEdge_eq (i : LineId) (e : Edge) (s : State) :
    acceptEdge i e s =
      if (s.input i).capture.holds e then offerCapture (s.captureOf i e) (s.triggered i e)
      else s.triggered i e := rfl

/-- A trigger changes the lanes alone. -/
theorem State.triggered_lanes (s : State) (i : LineId) (e : Edge) :
    s.triggered i e = { s with lanes := (s.triggered i e).lanes } := by
  unfold State.triggered
  split <;> rfl

/-- Settles O52: the trigger reaches the lanes, and the capture the queue or the gap count. -/
theorem edgesTriggerAndCapture : Obligations.EdgesTriggerAndCapture := by
  intro i e s l inSet t
  have inSet_iff (w : EdgeSet) : w.holds e = true ↔ inSet w := EdgeSet.holds_iff w e
  -- The lanes are those the trigger leaves, and of the rest only the Capture Queue and CAPQ_GAP
  -- can change.
  have lanes : t.lanes = (s.triggered i e).lanes := by
    change (acceptEdge i e s).lanes = _
    rw [acceptEdge_eq]
    split
    · rcases offerCapture_cases (s.captureOf i e) (s.triggered i e) with ⟨-, h⟩ | ⟨-, h⟩ <;> rw [h]
    · rfl
  have frame : t = { s with lanes := t.lanes, capq := t.capq, ints := t.ints } := by
    change acceptEdge i e s = { s with
      lanes := (acceptEdge i e s).lanes, capq := (acceptEdge i e s).capq
      ints := (acceptEdge i e s).ints }
    rw [acceptEdge_eq, s.triggered_lanes i e]
    split
    · rcases offerCapture_cases (s.captureOf i e) { s with lanes := (s.triggered i e).lanes } with
        ⟨-, h⟩ | ⟨-, h⟩ <;> rw [h]
    · rfl
  have captured (hc : inSet l.capture) :
      t = offerCapture (s.captureOf i e) { s with lanes := (s.triggered i e).lanes } := by
    change acceptEdge i e s = _
    rw [acceptEdge_eq, if_pos ((inSet_iff _).2 hc), ← s.triggered_lanes]
  refine ⟨fun ht n => ?_, fun ht => ?_, fun hc => ?_, fun hc room => ?_, fun hc full => ?_, ?_⟩
  · have lane : t.lane n = (s.lane n).trigger i := by
      rw [State.lane, lanes, State.triggered, if_pos ((inSet_iff _).2 ht), deliverTrigger,
        PerLane.get_build]
    rw [lane]
    exact ⟨Lane.trigger_waiting, fun a => Lane.trigger_armed, Lane.trigger_other⟩
  · rw [lanes, State.triggered, if_neg (mt (inSet_iff _).1 ht)]
  · have kept : t = s.triggered i e := by
      change acceptEdge i e s = _
      rw [acceptEdge_eq, if_neg (mt (inSet_iff _).1 hc)]
    rw [kept, s.triggered_lanes]
    exact ⟨rfl, rfl⟩
  · have stored := (captured hc).trans (if_pos room)
    rw [stored]
    refine ⟨rfl, _, rfl, rfl, rfl, rfl, rfl, Timebase.phase_toNat _, decide_eq_true_iff, fun tag => ?_,
      fun n tag => ?_⟩
    · exact congrArg (Option.map s.snapshot) (InputLine.tagLane_none tag)
    · exact ⟨_, congrArg (Option.map s.snapshot) (InputLine.tagLane_some tag), rfl, rfl, rfl, rfl⟩
  · have dropped := (captured hc).trans (if_neg (Nat.not_lt.2 full))
    rw [dropped, satSucc_byte]
    exact ⟨rfl, rfl⟩
  · rw [frame]
    exact ⟨rfl, rfl, rfl, rfl, rfl, rfl, rfl, rfl, rfl, rfl⟩

end Sys2Proof.Machine
end

/-! ## A lane's own event that begins no step (R46 to R48, R69, R79, R80, R83, R117) -/

section
namespace Sys2Proof.Machine

theorem exec_laneBoundary {s : State} (h : s.port.rstnLow = false) (n : LaneId) :
    exec (.laneBoundary n) s = laneEvent n s :=
  if_neg (by rw [h]; exact Bool.false_ne_true)

/-- A lane event that only sets its lane's fields, and leaves it at the level it drove, judges no
gate. -/
theorem laneEvent_setLane {n : LaneId} {s : State} {x : Lane}
    (h : ownActions n s = (s.setLane n x, [])) (called : (s.lane n).called = x.called) :
    laneEvent n s = .next (s.setLane n x) := by
  rw [laneEvent_idle h, settle_setLane (.inl rfl) (.inl rfl), judgeSegment_same called]

/-- Settles O38: in each case the lane's own actions set its fields and leave no work. -/
theorem laneBoundaryWithoutStep : Obligations.LaneBoundaryWithoutStep := by
  intro n s hr l
  rw [exec_laneBoundary hr]
  refine ⟨fun ht => ?_, fun ht hs => ?_, fun a ht hb hs hp ha hm hst => ?_, fun ht hs hrem => ?_,
    fun ht hb hs hp hw hrem => ?_, fun ht hacts => ⟨?_, fun c hc => ?_⟩⟩
  · exact laneEvent_setLane (ownActions_taken ht) rfl
  · exact laneEvent_setLane (ownActions_off ht hs) rfl
  · have notDue : l.startDue s.tb.time = false := by
      unfold Lane.startDue
      rw [ha]
      dsimp only
      rw [hm, Bool.false_or]
      split
      · next t h => exact decide_eq_false fun hnow => hst (by rw [h, hnow])
      all_goals rfl
    refine laneEvent_setLane ((ownActions_armed ht hb hs).trans ?_) rfl
    unfold armedBoundary
    rw [State.lane_setLane_self, if_neg (Bool.eq_false_iff.1 hp)]
    exact if_neg (Bool.eq_false_iff.1 notDue)
  · have notLast : l.remaining ≠ 1 := fun h => by rw [h] at hrem; exact absurd hrem (by decide)
    refine laneEvent_setLane ((ownActions_running ht hs).trans ?_) rfl
    simp only [runningBoundary, State.lane_setLane_self, State.setLane_setLane]
    exact congrArg (Prod.mk _) (if_neg notLast)
  · refine laneEvent_setLane ((ownActions_waiting ht hb hs).trans ?_) rfl
    simp only [waitingBoundary, State.lane_setLane_self, State.setLane_setLane]
    rw [if_neg (Bool.eq_false_iff.1 hp), if_neg (Bool.eq_false_iff.1 hw)]
    by_cases h0 : l.remaining = 0
    · rw [if_pos h0, if_pos h0, ← h0]
      rfl
    · rw [if_neg h0, if_neg hrem, if_neg h0]
      rfl
  · have acts := Lane.actsNext_iff.2 hacts
    refine laneEvent_setLane ((ownActions_actsNext ht acts).trans ?_) ?_
    · rcases hacts.2 with hs | hs
      · rw [Lane.takeBoundary_off (by rw [hs]; exact nofun) (by rw [hs]; exact nofun),
          if_neg (by rw [hs]; exact nofun)]
      · rw [Lane.takeBoundary_on (.inr hs), if_pos hs]
        rfl
    · rfl
  · have acts := Lane.actsNext_iff.2 hacts
    have notDue : l.waitExpires = false ∧ l.waitEnds = false ∧
        l.starts s.tb.time = false ∧ l.spliceLands = false := by
      simp [Lane.waitExpires, Lane.waitEnds, Lane.starts, Lane.spliceLands, l, acts]
    obtain ⟨expires, ends, starts, lands⟩ := notDue
    simp only [List.mem_cons, List.not_mem_nil, or_false] at hc
    rcases hc with rfl | rfl | rfl | rfl
    · exact if_pos (.inr expires)
    · exact if_pos (.inr ends)
    · exact if_pos (.inr starts)
    · exact if_pos (.inr lands)

end Sys2Proof.Machine
end

/-! ## Faults of several lanes in one event, and the barriers they break (R36, R67, R96, R121, R123) -/

section
namespace Sys2Proof.Machine

/-! ### Fault entries, lane by lane -/

/-- Lane n's part of `State.postAborted`: its record is offered, made from the lane as it stood when
the event began. -/
def State.postAbortedOf (old : State) (cause : LaneId → FaultCause) (n : LaneId) (t : State) :
    State :=
  match (old.lane n).queue.active with
  | none => t
  | some a =>
    postTerminal n a.desc
      (.aborted n a.desc.tag (old.lane n).passesDone (.fault (cause n)) (old.lane n).stepAddr) t

theorem State.postAborted_nil (old : State) (cause : LaneId → FaultCause) (s : State) :
    old.postAborted cause [] s = s := rfl

theorem State.postAborted_cons (old : State) (cause : LaneId → FaultCause) (n : LaneId)
    (rest : List LaneId) (s : State) :
    old.postAborted cause (n :: rest) s
      = old.postAborted cause rest (old.postAbortedOf cause n s) := rfl

/-- The lanes of a list have their fields after fault entry, and no record is offered yet. -/
def State.withFaults (s : State) (cause : LaneId → FaultCause) (ns : List LaneId) : State :=
  { s with
    lanes := PerLane.build fun n =>
      if n ∈ ns then (s.lane n).faulted (cause n) else s.lane n }

theorem State.withFaults_nil (s : State) (cause : LaneId → FaultCause) :
    s.withFaults cause [] = s := by
  simp only [State.withFaults, List.not_mem_nil, if_false]
  rfl

theorem State.withFaults_lane (s : State) (cause : LaneId → FaultCause) (ns : List LaneId)
    (n : LaneId) :
    (s.withFaults cause ns).lane n
      = if n ∈ ns then (s.lane n).faulted (cause n) else s.lane n :=
  PerLane.get_build _ n

theorem State.withFaults_cons (s : State) (cause : LaneId → FaultCause) {n : LaneId}
    {rest : List LaneId} (h : n ∉ rest) :
    (s.setLane n ((s.lane n).faulted (cause n))).withFaults cause rest
      = s.withFaults cause (n :: rest) := by
  refine congrArg (fun f => { s with lanes := PerLane.build f }) (funext fun m => ?_)
  rw [State.lane_setLane]
  by_cases hm : m = n
  · subst hm
    simp [h]
  · simp [hm]

/-- The record of a lane is offered the same before and after the faults of the others. -/
theorem postTerminal_withFaults {n : LaneId} {ns : List LaneId} (h : n ∉ ns)
    (cause : LaneId → FaultCause) (d : Descriptor) (b : EventBody) (s : State) :
    postTerminal n d b (s.withFaults cause ns) = (postTerminal n d b s).withFaults cause ns := by
  have self : (s.withFaults cause ns).lane n = s.lane n := by
    rw [State.withFaults_lane, if_neg h]
  unfold postTerminal
  by_cases hp : s.evq.canPlace = true
  · rw [if_pos hp, if_pos (show (s.withFaults cause ns).evq.canPlace = true from hp)]
    rfl
  · rw [if_neg hp, if_neg (show ¬(s.withFaults cause ns).evq.canPlace = true from hp)]
    dsimp only
    rw [self]
    have lanes : ((s.withFaults cause ns).setLane n ((s.lane n).withHeld ⟨d, ⟨s.tb.time, 0, b⟩⟩)).lanes
        = ((s.setLane n ((s.lane n).withHeld ⟨d, ⟨s.tb.time, 0, b⟩⟩)).withFaults cause ns).lanes := by
      refine PerLane.ext_get fun m => ?_
      change State.lane _ m = State.lane _ m
      rw [State.lane_setLane, State.withFaults_lane, State.withFaults_lane, State.lane_setLane]
      by_cases hm : m = n
      · rw [if_pos hm, hm, if_neg h, if_pos rfl]
      · rw [if_neg hm, if_neg hm]
    exact congrArg (fun v => { s with
      lanes := v, evq := { s.evq with deferral := s.evq.deferral ++ [DeferralEntry.lane n] } }) lanes

theorem State.postAbortedOf_withFaults (old : State) {n : LaneId} {ns : List LaneId} (h : n ∉ ns)
    (cause : LaneId → FaultCause) (s : State) :
    old.postAbortedOf cause n (s.withFaults cause ns)
      = (old.postAbortedOf cause n s).withFaults cause ns := by
  unfold State.postAbortedOf
  split
  · rfl
  · exact postTerminal_withFaults h ..

theorem State.postAbortedOf_lane_ne (old : State) (cause : LaneId → FaultCause) (s : State)
    {n m : LaneId} (h : m ≠ n) : (old.postAbortedOf cause n s).lane m = s.lane m := by
  unfold State.postAbortedOf
  split
  · rfl
  · next a _ =>
    rcases postTerminal_cases n a.desc (.aborted n a.desc.tag (old.lane n).passesDone
      (.fault (cause n)) (old.lane n).stepAddr) s with ⟨-, h'⟩ | ⟨-, h'⟩ <;> rw [h']
    · rfl
    · exact s.lane_setLane_ne _ h

/-- Fault entry of a lane that stands as it did when the event began. -/
theorem enterFault_eq {old s : State} {n : LaneId} (h : s.lane n = old.lane n)
    (cause : LaneId → FaultCause) :
    enterFault (cause n) n s
      = old.postAbortedOf cause n (s.setLane n ((s.lane n).faulted (cause n))) := by
  cases ha : (old.lane n).queue.active with
  | none => simp only [enterFault, State.postAbortedOf, h, ha]
  | some a => simp only [enterFault, State.postAbortedOf, h, ha]

/-- Fault entries in a row come to the lanes' own fields, and then the offers of their records in the
same order (R67, R123). -/
theorem foldl_enterFault {old : State} (cause : LaneId → FaultCause) {ns : List LaneId}
    (nodup : ns.Nodup) {s : State} (h : ∀ n ∈ ns, s.lane n = old.lane n) :
    ns.foldl (fun t n => enterFault (cause n) n t) s
      = old.postAborted cause ns (s.withFaults cause ns) := by
  induction ns generalizing s with
  | nil => rw [State.withFaults_nil, State.postAborted_nil, List.foldl_nil]
  | cons n rest ih =>
    obtain ⟨hn, hrest⟩ := List.nodup_cons.1 nodup
    obtain ⟨hs, hothers⟩ := List.forall_mem_cons.1 h
    rw [List.foldl_cons, enterFault_eq hs, ih hrest, State.postAborted_cons,
      ← State.postAbortedOf_withFaults _ hn, State.withFaults_cons _ _ hn]
    intro m hm
    have ne : m ≠ n := fun h => hn (h ▸ hm)
    rw [State.postAbortedOf_lane_ne _ _ _ ne, State.lane_setLane_ne _ _ ne, hothers m hm]

/-- An offer of a terminal record changes no field of a lane but its launch queue. -/
theorem postTerminal_lane (n : LaneId) (d : Descriptor) (b : EventBody) (s : State) (m : LaneId) :
    ∃ q, (postTerminal n d b s).lane m = { s.lane m with queue := q } := by
  rcases postTerminal_cases n d b s with ⟨-, h⟩ | ⟨-, h⟩ <;> rw [h]
  · exact ⟨_, rfl⟩
  · change ∃ q, (s.setLane n _).lane m = _
    rw [State.lane_setLane]
    split
    · next hm =>
      rw [hm]
      exact ⟨_, rfl⟩
    · exact ⟨_, rfl⟩

theorem State.postAborted_lane (old : State) (cause : LaneId → FaultCause) (ns : List LaneId)
    (s : State) (m : LaneId) :
    ∃ q, (old.postAborted cause ns s).lane m = { s.lane m with queue := q } := by
  induction ns generalizing s with
  | nil => exact ⟨_, rfl⟩
  | cons n rest ih =>
    rw [State.postAborted_cons]
    obtain ⟨q, hq⟩ := ih (old.postAbortedOf cause n s)
    rw [hq]
    unfold State.postAbortedOf
    split
    · exact ⟨q, rfl⟩
    · next a _ =>
      obtain ⟨q', hq'⟩ := postTerminal_lane n a.desc (.aborted n a.desc.tag
        (old.lane n).passesDone (.fault (cause n)) (old.lane n).stepAddr) s m
      rw [hq']
      exact ⟨q, rfl⟩

/-- What the offers of several lanes defer stands in the order of the offers. -/
theorem State.postAborted_deferral (old : State) (cause : LaneId → FaultCause) (ns : List LaneId)
    (s : State) :
    ∃ added, (old.postAborted cause ns s).evq.deferral = s.evq.deferral ++ added ∧
      added.Sublist (ns.map .lane) := by
  induction ns generalizing s with
  | nil => exact ⟨[], (List.append_nil _).symm, .slnil⟩
  | cons n rest ih =>
    rw [State.postAborted_cons]
    obtain ⟨added, hd, hsub⟩ := ih (old.postAbortedOf cause n s)
    rw [hd, List.map_cons]
    unfold State.postAbortedOf
    split
    · exact ⟨added, rfl, hsub.cons _⟩
    · next a _ =>
      rcases postTerminal_cases n a.desc (.aborted n a.desc.tag (old.lane n).passesDone
        (.fault (cause n)) (old.lane n).stepAddr) s with ⟨-, h⟩ | ⟨-, h⟩ <;> rw [h]
      · exact ⟨added, rfl, hsub.cons _⟩
      · exact ⟨.lane n :: added, by simp, hsub.cons_cons _⟩

/-! ### Barriers broken -/

theorem mem_brokenGroups (s : State) (ls : List LaneId) (g : GroupId) :
    g ∈ brokenGroups s ls ↔ groupHit s ls g = true := by
  unfold brokenGroups
  split
  · next h0 =>
    split
    · next h1 => split <;> cases g <;> simp [h0, h1]
    · next h1 => cases g <;> simp [h0, h1]
  · next h0 => split <;> cases g <;> simp_all

theorem mem_heldAt (s : State) (gs : List GroupId) (n : LaneId) :
    n ∈ heldAt s gs ↔ ∃ g ∈ gs, LaneSet.has (s.group g).arrived n = true := by
  simp [heldAt]

theorem emptyArrived_group (gs : List GroupId) (s : State) (g : GroupId) :
    (emptyArrived gs s).group g
      = if g ∈ gs then { s.group g with arrived := 0 } else s.group g :=
  PerGroup.get_build _ g

/-- A group the faults of the lanes given do not break by themselves is broken by the faults of the
lanes held at the other group, which they do break (R121, the second break). -/
def breaksSecond (s : State) (ls : List LaneId) (g : GroupId) : Bool :=
  !groupHit s ls g && decide ((s.group g).arrived ≠ 0) && groupHit s ls g.other &&
    LaneId.all.any fun n =>
      LaneSet.has (s.group g.other).arrived n && LaneSet.has (s.group g).members n

/-- The groups the faults of the lanes given break, at the first break or the second. -/
def breaks (s : State) (ls : List LaneId) (g : GroupId) : Bool :=
  groupHit s ls g || breaksSecond s ls g

theorem GroupId.eq_or_eq_other (g h : GroupId) : h = g ∨ h = g.other := by
  cases g <;> cases h <;> decide

/-- The second break of `breakBarriers` is the one `breaksSecond` says. -/
theorem mem_secondBreak (s : State) (ls : List LaneId) (g : GroupId) :
    g ∈ brokenGroups (emptyArrived (brokenGroups s ls) s) (heldAt s (brokenGroups s ls)) ↔
      breaksSecond s ls g = true := by
  rw [mem_brokenGroups, groupHit, emptyArrived_group]
  simp only [mem_brokenGroups, breaksSecond, Bool.and_eq_true, decide_eq_true_eq, List.any_eq_true,
    mem_heldAt, LaneId.mem_all, true_and, Bool.not_eq_true']
  by_cases hg : groupHit s ls g = true
  · simp [hg]
  · rw [if_neg hg]
    have hg' : groupHit s ls g = false := by simpa using hg
    constructor
    · rintro ⟨harr, n, ⟨h, hh, hhas⟩, hmem⟩
      rcases GroupId.eq_or_eq_other g h with rfl | rfl
      · exact absurd hh hg
      · exact ⟨⟨⟨hg', harr⟩, hh⟩, n, hhas, hmem⟩
    · rintro ⟨⟨⟨-, harr⟩, hh⟩, n, hhas, hmem⟩
      exact ⟨harr, n, ⟨g.other, hh, hhas⟩, hmem⟩

/-- The broken groups are emptied, and nothing else changes. -/
theorem breakBarriers_state (ls : List LaneId) (s : State) :
    (breakBarriers ls s).1 =
      { s with
        groups := PerGroup.build fun g =>
          { s.group g with arrived := if breaks s ls g then 0 else (s.group g).arrived } } := by
  have groups (g : GroupId) : (breakBarriers ls s).1.group g =
      { s.group g with arrived := if breaks s ls g then 0 else (s.group g).arrived } := by
    unfold breakBarriers
    dsimp only
    rw [emptyArrived_group]
    simp only [mem_secondBreak]
    rw [emptyArrived_group]
    simp only [mem_brokenGroups, breaks]
    by_cases first : groupHit s ls g = true <;> by_cases second : breaksSecond s ls g = true <;>
      simp [first, second]
  have same : (breakBarriers ls s).1.groups = PerGroup.build (breakBarriers ls s).1.group :=
    (PerGroup.build_get _).symm
  change { s with groups := (breakBarriers ls s).1.groups } = _
  rw [same]
  exact congrArg (fun f => { s with groups := PerGroup.build f }) (funext groups)

/-- The broken lanes are those held at a broken group (R121). -/
theorem mem_breakBarriers (ls : List LaneId) (s : State) (n : LaneId) :
    n ∈ (breakBarriers ls s).2 ↔
      ∃ g, breaks s ls g = true ∧ LaneSet.has (s.group g).arrived n = true := by
  unfold breakBarriers
  dsimp only
  simp only [List.mem_append, mem_heldAt, mem_secondBreak]
  simp only [mem_brokenGroups, emptyArrived_group, breaks, Bool.or_eq_true]
  constructor
  · rintro (⟨g, hg, hn⟩ | ⟨g, hg, hn⟩)
    · exact ⟨g, .inl hg, hn⟩
    · refine ⟨g, .inr hg, ?_⟩
      split at hn
      · simp at hn
      · exact hn
  · rintro ⟨g, hg | hg, hn⟩
    · exact .inl ⟨g, hg, hn⟩
    · have notFirst : ¬ groupHit s ls g = true := by
        simp only [breaksSecond, Bool.and_eq_true, Bool.not_eq_true'] at hg
        obtain ⟨⟨⟨h, -⟩, -⟩, -⟩ := hg
        rw [h]
        exact Bool.false_ne_true
      exact .inr ⟨g, hg, by rwa [if_neg notFirst]⟩

/-- Several lanes leave every arrived set (R119). -/
theorem foldl_depart (ns : List LaneId) (s : State) :
    ns.foldl (fun t n => depart n t) s =
      { s with
        groups := PerGroup.build fun g =>
          { s.group g with arrived := ns.foldl LaneSet.erase (s.group g).arrived } } := by
  induction ns generalizing s with
  | nil => rfl
  | cons n rest ih =>
    rw [List.foldl_cons, ih]
    simp only [List.foldl_cons, depart, State.group, PerGroup.get_build]

/-! ### The end of an event whose entries stand in order -/

/-- A lane whose gate the event has closed, and that calls for no carrier, keeps its gate. -/
theorem judgeSegment_closed {cs : PerCarrier Carrier} {a b : Lane} (called : b.called = none)
    (gate : b.gate = .closed) : judgeSegment cs a b = b := by
  have same : { b with gate := .closed } = b := by rw [← gate]
  unfold judgeSegment
  rw [called]
  split
  · rfl
  · cases a.called with
    | none => rfl
    | some x =>
      dsimp only [endSegment]
      rw [if_neg (by rw [gate]; exact fun h => nomatch h.2.1), same]

theorem settle_eq_self {s t : State}
    (gates : ∀ n, judgeSegment t.carriers (s.lane n) (t.lane n) = t.lane n)
    {added : List DeferralEntry} (deferral : t.evq.deferral = s.evq.deferral ++ added)
    (sorted : DeferralEntry.Sorted added) : settle s t = t := by
  have lanes : (PerLane.build fun n => judgeSegment t.carriers (s.lane n) (t.lane n)) = t.lanes :=
    (congrArg PerLane.build (funext gates)).trans (PerLane.build_get t.lanes)
  have entries : t.evq.deferral.take s.evq.deferral.length
      ++ sortEntries (t.evq.deferral.drop s.evq.deferral.length) = t.evq.deferral := by
    rw [deferral, List.take_left, List.drop_left, sortEntries_of_sorted sorted]
  unfold settle
  rw [lanes, entries]

/-! ### The loss of the reference -/

/-- Recording a loss or a lock changes no lane, and defers at most the TBU's own entry. -/
theorem recordTimebase_frame (st : TbState) (loss lock : Bool) (s : State) :
    (recordTimebase st loss lock s).lanes = s.lanes ∧
      ∃ added, (recordTimebase st loss lock s).evq.deferral = s.evq.deferral ++ added ∧
        added.Sublist [.timebase] := by
  rcases recordTimebase_cases st loss lock s with ⟨r, r', -, h⟩ | ⟨r, -, -, h⟩ | ⟨r, -, -, h⟩ <;>
    rw [h]
  · exact ⟨rfl, [], (List.append_nil _).symm, List.nil_sublist _⟩
  · exact ⟨rfl, [], (List.append_nil _).symm, List.nil_sublist _⟩
  · exact ⟨rfl, _, rfl, List.Sublist.refl _⟩

/-- The entries of lanes in ascending number, and the TBU's behind them, are in the order of R152. -/
theorem DeferralEntry.sorted_of_sublist {p : LaneId → Bool} {ls ts : List DeferralEntry}
    (hl : ls.Sublist ((LaneId.all.filter p).map .lane)) (ht : ts.Sublist [.timebase]) :
    DeferralEntry.Sorted (ls ++ ts) := by
  have all : DeferralEntry.Sorted (LaneId.all.map .lane ++ [.timebase]) := by
    unfold DeferralEntry.Sorted
    decide
  exact List.Pairwise.sublist ((hl.trans (List.filter_sublist.map _)).append ht) all

/-- A lane's cause in a loss of the reference (R36, R121). -/
def lossCause (lost : LaneId → Bool) (n : LaneId) : FaultCause :=
  if lost n then .refLost else .barrierBroken

/-- The faults of a loss: the lanes R36 names leave the arrived sets, the broken groups are emptied,
and the lanes fault in ascending number (R36, R121, R123). -/
theorem faultForLoss_eq (s : State) {lost held : LaneId → Bool}
    (hlost : lossFaults s = LaneId.all.filter lost)
    (hheld : ∀ n, n ∈ (breakBarriers (lossFaults s)
      ((lossFaults s).foldl (fun t n => depart n t) s)).2 ↔ held n = true) :
    faultForLoss s =
      s.postAborted (lossCause lost) (LaneId.all.filter fun n => lost n || held n)
        { s with
          groups := (breakBarriers (lossFaults s)
            ((lossFaults s).foldl (fun t n => depart n t) s)).1.groups
          lanes := PerLane.build fun n =>
            if lost n then (s.lane n).faulted .refLost
            else if held n then (s.lane n).faulted .barrierBroken
            else s.lane n } := by
  have broken : (breakBarriers (lossFaults s)
      ((lossFaults s).foldl (fun t n => depart n t) s)).1 =
      { s with groups := (breakBarriers (lossFaults s)
        ((lossFaults s).foldl (fun t n => depart n t) s)).1.groups } := by
    rw [breakBarriers_state, foldl_depart]
  have faulted : (fun n =>
        if n ∈ LaneId.all.filter fun n => lost n || held n then
          (s.lane n).faulted (lossCause lost n)
        else s.lane n)
      = fun n =>
        if lost n then (s.lane n).faulted .refLost
        else if held n then (s.lane n).faulted .barrierBroken
        else s.lane n := by
    funext n
    simp only [List.mem_filter, LaneId.mem_all, true_and, lossCause]
    cases lost n <;> cases held n <;> rfl
  have entries := foldl_enterFault (old := s) (lossCause lost)
    (LaneId.nodup_all.filter fun n => lost n || held n)
    (s := (breakBarriers (lossFaults s) ((lossFaults s).foldl (fun t n => depart n t) s)).1)
    (fun n _ => by rw [broken]; rfl)
  rw [← faulted]
  refine Eq.trans ?_ (entries.trans (by rw [broken]; rfl))
  rw [List.foldl_filter, faultForLoss]
  refine congrArg (fun f => List.foldl f _ _) (funext fun t => funext fun n => ?_)
  have mem : n ∈ lossFaults s ↔ lost n = true := by simp [hlost]
  simp only [mem, hheld, lossCause]
  cases lost n <;> cases held n <;> rfl

/-- The event of a loss is settled as it stands: the gates of the faulted lanes are closed, and the
records are deferred in ascending lane number with the TBU's behind them (R110, R152). -/
theorem settle_loss {s base : State} {p : LaneId → Bool} (cause : LaneId → FaultCause) (st : TbState)
    (deferral : base.evq.deferral = s.evq.deferral)
    (lanes : ∀ n, base.lane n = s.lane n ∨ ∃ c, base.lane n = (s.lane n).faulted c) :
    settle s (recordTimebase st true false (s.postAborted cause (LaneId.all.filter p) base))
      = recordTimebase st true false (s.postAborted cause (LaneId.all.filter p) base) := by
  obtain ⟨kept, waits, deferredTb, hwaits⟩ :=
    recordTimebase_frame st true false (s.postAborted cause (LaneId.all.filter p) base)
  obtain ⟨added, deferred, hadded⟩ := s.postAborted_deferral cause (LaneId.all.filter p) base
  refine settle_eq_self (added := added ++ waits) (fun n => ?_)
    (by rw [deferredTb, deferred, deferral, List.append_assoc])
    (DeferralEntry.sorted_of_sublist hadded hwaits)
  obtain ⟨q, hq⟩ := s.postAborted_lane cause (LaneId.all.filter p) base n
  have lane : (recordTimebase st true false
      (s.postAborted cause (LaneId.all.filter p) base)).lane n = { base.lane n with queue := q } :=
    (congrArg (fun v : PerLane Lane => v.get n) kept).trans hq
  rw [lane]
  rcases lanes n with h | ⟨c, h⟩ <;> rw [h]
  · exact judgeSegment_same rfl
  · exact judgeSegment_closed rfl rfl

/-- Settles O30: the loss by the state of the timebase; in EXTERNAL the faults are those of
`faultForLoss_eq`, and the event's entries stand in order as they were deferred. -/
theorem referenceLoss : Obligations.ReferenceLoss := by
  have taken {s : State} (hr : s.port.rstnLow = false) :
      exec .lossDetected s = .next (settle s (detectLoss s)) := congrArg _ (unlessHeld_of_high hr _)
  refine ⟨fun s hr => ⟨fun hs => ?_, fun hs => ?_⟩, ?_⟩
  · have restarts : detectLoss s = { s with tb := { s.tb with qual := 0, window := 0 } } := by
      rcases hs with hs | hs <;> simp only [detectLoss, hs]
    rw [taken hr, restarts]
    exact congrArg _ (settle_none rfl (.inl rfl))
  · have nothing : detectLoss s = s := by rcases hs with hs | hs <;> simp only [detectLoss, hs]
    rw [taken hr, nothing]
    exact congrArg _ (settle_none rfl (.inl rfl))
  · intro s hr hs st lost left first second broken held
    let s1 : State := { s with
      tb := { s.tb with
        state := st, qual := 0, window := 0, tick := ⟨.iosc, .holdover, s.tb.divHold, 0⟩ } }
    let lostLanes := LaneId.all.filter lost
    let u : State := { s1 with groups := PerGroup.build fun g => { s.group g with arrived := left g } }
    have departed : (lossFaults s1).foldl (fun t n => depart n t) s1 = u := foldl_depart ..
    have group (g : GroupId) : u.group g = { s.group g with arrived := left g } :=
      PerGroup.get_build _ g
    have hit (g : GroupId) : groupHit u lostLanes g = first g := by
      rw [groupHit, group, List.any_filter]
    have breaks_eq (g : GroupId) : breaks u lostLanes g = broken g := by
      simp only [breaks, breaksSecond, hit, group]
      rfl
    have held_iff (n : LaneId) : n ∈ (breakBarriers lostLanes u).2 ↔ held n = true := by
      simp only [mem_breakBarriers, breaks_eq, group, held, Bool.or_eq_true, Bool.and_eq_true]
      constructor
      · rintro ⟨_ | _, h⟩
        · exact .inl h
        · exact .inr h
      · rintro (h | h)
        · exact ⟨.g0, h⟩
        · exact ⟨.g1, h⟩
    have emptied : (breakBarriers lostLanes u).1.groups = PerGroup.build fun g =>
        { s.group g with arrived := if broken g then 0 else left g } := by
      rw [breakBarriers_state]
      simp only [breaks_eq, group]
    have faulted := faultForLoss_eq s1 (lost := lost) (held := held) rfl
      (by rw [departed]; exact held_iff)
    rw [departed, show lossFaults s1 = lostLanes from rfl, emptied] at faulted
    have lost_eq : detectLoss s = recordTimebase st true false (faultForLoss s1) := by
      simp only [detectLoss, hs]
      rfl
    rw [taken hr, lost_eq, faulted]
    refine congrArg _ (settle_loss _ st rfl fun n => ?_)
    rw [State.lane, PerLane.get_build]
    split
    · exact .inr ⟨_, rfl⟩
    · split
      · exact .inr ⟨_, rfl⟩
      · exact .inl rfl

end Sys2Proof.Machine
end

/-! ## The register map and the words registers show (R22, R99, R126, R142, R165, R174 to R176) -/

section
namespace Sys2Proof.Machine

/-! ### Fields of a word put together from its fields -/

/-- A word made by appending holds a value at a bit position: it is the value, ends in it, or holds it
in the part above its lowest bits. -/
inductive FieldAt : {n : Nat} → BitVec n → Nat → {len : Nat} → BitVec len → Prop where
  | whole {n : Nat} (f : BitVec n) : FieldAt f 0 f
  | low {n len : Nat} (x : BitVec n) (f : BitVec len) : FieldAt (x ++ f) 0 f
  | high {n k len lo : Nat} {x : BitVec n} {y : BitVec k} {f : BitVec len} (h : FieldAt x lo f) :
    FieldAt (x ++ y) (lo + k) f

theorem FieldAt.extract {n len lo : Nat} {w : BitVec n} {f : BitVec len} (h : FieldAt w lo f) :
    w.extractLsb' lo len = f := by
  induction h with
  | whole f => exact BitVec.extractLsb'_eq_self
  | low x f =>
    rw [BitVec.extractLsb'_append_eq_of_add_le (Nat.zero_add _).le]
    exact BitVec.extractLsb'_eq_self
  | high h ih =>
    rw [BitVec.extractLsb'_append_eq_of_le (Nat.le_add_left ..), Nat.add_sub_cancel, ih]

/-- The bit of a one-bit field. -/
theorem FieldAt.bit {n k : Nat} {w : BitVec n} {f : BitVec 1} (h : FieldAt w k f) :
    w.getLsbD k = f.getLsbD 0 := by
  have bit := congrArg (fun x : BitVec 1 => x.getLsbD 0) h.extract
  simpa using bit

theorem FieldAt.flag {n k : Nat} {w : BitVec n} {b : Bool} (h : FieldAt w k (BitVec.ofBool b)) :
    w.getLsbD k = b := by
  rw [h.bit]
  cases b <;> rfl

/-- A field alone in its word. -/
theorem extractLsb'_setWidth_self {v n : Nat} (x : BitVec v) (h : v ≤ n) :
    (x.setWidth n).extractLsb' 0 v = x := by
  rw [BitVec.extractLsb'_setWidth_of_le (by omega), BitVec.extractLsb'_eq_self]

/-- A word within a mask, part by part. -/
theorem append_and_eq_zero {v w : Nat} {x : BitVec v} {y : BitVec w} {m : BitVec (v + w)}
    (hx : x &&& m.extractLsb' w v = 0) (hy : y &&& m.extractLsb' 0 w = 0) : (x ++ y) &&& m = 0 := by
  have parts : m = m.extractLsb' w v ++ m.extractLsb' 0 w :=
    BitVec.extractLsb'_append_extractLsb'.symm
  rw [parts, BitVec.and_append, hx, hy]
  exact BitVec.zero_append_zero

/-- A field alone in its word lies within the mask of its width. -/
theorem setWidth_and_eq_zero {v n : Nat} {x : BitVec v} {m : BitVec n} (h : m.setWidth v = 0) :
    x.setWidth n &&& m = 0 := by
  ext i hi
  have bit := congrArg (fun y : BitVec v => y.getLsbD i) h
  simp only [BitVec.getLsbD_setWidth] at bit
  by_cases hiv : i < v
  · simp_all [BitVec.getLsbD_eq_getElem]
  · simp [BitVec.getLsbD_of_ge _ _ (Nat.le_of_not_lt hiv)]

/-! ### Codes a register shows -/

theorem TickSource.code_bit (x : TickSource) : x.code.getLsbD 0 = true ↔ x = .refin := by
  cases x <;> decide

theorem levelBit_bit (v : Level) : (levelBit v).getLsbD 0 = true ↔ v = .high := by
  cases v <;> decide

/-- A pair of widths shown is the pending one, and 0 where there is none (R103). -/
theorem carWidth_none {s : State} {x : CarrierId} (h : (s.carrier x).pair = none) :
    (readReg (.carWidth x) s).extractLsb' 0 16 = 0 := by
  have low : FieldAt (readReg (.carWidth x) s) 0 ((s.carrier x).pair.getD ⟨0, 0⟩).low := .low ..
  have high : FieldAt (readReg (.carWidth x) s) 8 ((s.carrier x).pair.getD ⟨0, 0⟩).high :=
    .high (.low ..)
  have parts : (readReg (.carWidth x) s).extractLsb' 0 16 =
      (readReg (.carWidth x) s).extractLsb' 8 8 ++ (readReg (.carWidth x) s).extractLsb' 0 8 :=
    (BitVec.extractLsb'_append_extractLsb'_eq_extractLsb' (len₁ := 8) (len₂ := 8) rfl).symm
  rw [parts, low.extract, high.extract, h]
  rfl

/-- The bits that are no field of R175 and R176 read 0 (R165). -/
theorem readReg_masked (s : State) :
    (readReg .hostStatus s &&& ~~~0xFF = 0 ∧ readReg .cmdResult s &&& ~~~0x7F0F = 0 ∧
      readReg .intStatus s &&& ~~~0x1F = 0 ∧ readReg .intEnable s &&& ~~~0x1F = 0 ∧
      readReg .portErr s &&& ~~~0x7F07 = 0) ∧
    (readReg .tbCtrl s &&& ~~~1 = 0 ∧ readReg .tbStatus s &&& ~~~0x3FFFF7 = 0 ∧
      (∀ d, readReg (.tbDiv d) s &&& ~~~0x3FF = 0) ∧ readReg .tbTrim s &&& ~~~0x1F = 0) ∧
    readReg .pmemPtr s &&& ~~~0x80000FFF = 0 ∧
    (readReg .groupStatus s &&& ~~~0xFFFF3F3F = 0 ∧
      ∀ g, readReg (.groupMembers g) s &&& ~~~0x3F = 0) ∧
    (readReg .inLevel s &&& ~~~0xFF = 0 ∧ ∀ i, readReg (.inCfg i) s &&& ~~~0x7F77 = 0) ∧
    (readReg .capqStatus s &&& ~~~0xFF1F3F = 0 ∧ readReg .evqStatus s &&& ~~~0xFF1F3F = 0) ∧
    (∀ x, readReg (.carCtrl x) s &&& ~~~0x1F1 = 0) ∧
    ∀ n, readReg (.laneCfg n) s &&& ~~~0x3F = 0 ∧ readReg (.laneStatus n) s &&& ~~~0x77F37F7 = 0 ∧
      readReg (.lanePass n) s &&& ~~~0xFFFFFF = 0 := by
  have alone {v : Nat} {x : BitVec v} {m : Word} (h : m.setWidth v = 0) : x.setWidth 32 &&& m = 0 :=
    setWidth_and_eq_zero h
  refine ⟨⟨alone (by decide), ?_, alone (by decide), alone (by decide), ?_⟩,
    ⟨?_, ?_, fun d => ?_, alone (by decide)⟩, ?_, ⟨?_, fun g => alone (by decide)⟩,
    ⟨?_, fun i => ?_⟩, ⟨?_, ?_⟩, fun x => ?_, fun n => ⟨?_, ?_, ?_⟩⟩
  all_goals
    repeat' apply append_and_eq_zero
    all_goals simp

/-- Settles O4: the map and the POR words row by row, and the fields of each register by where they
stand among the parts its word is put together from. -/
theorem registerMapAndResetValues : Obligations.RegisterMapAndResetValues := by
  refine ⟨?_, ?_, fun _ => ⟨rfl, rfl⟩, fun _ => rfl, fun _ => rfl, fun _ => rfl, fun s => ?_⟩
  · refine List.forall_mem_append.2 ⟨List.forall_mem_append.2 ⟨?_, ?_⟩, ?_⟩
    · decide
    · decide
    · refine List.forall_mem_flatMap.2 fun n _ => ?_
      cases n <;> decide
  · decide
  · intro bits bit level edges divider
    have field {r : Reg} {lo len : Nat} {f : BitVec len} (h : FieldAt (readReg r s) lo f) :
        bits r lo len = f := h.extract
    have flag {r : Reg} {k : Nat} {b : Bool} (h : FieldAt (readReg r s) k (BitVec.ofBool b)) :
        bit r k = b := h.flag
    have alone {r : Reg} {v : Nat} {f : BitVec v} (h : readReg r s = f.setWidth 32)
        (hv : v ≤ 32) : bits r 0 v = f := by
      change (readReg r s).extractLsb' 0 v = f
      rw [h, extractLsb'_setWidth_self f hv]
    have cause (k : Nat) (hk : k < 32) : bit .intStatus k = s.causes.getLsbD k := by
      change (s.causes.setWidth 32).getLsbD k = _
      rw [BitVec.getLsbD_setWidth, decide_eq_true hk, Bool.true_and]
    have level_code (c : CfgLevel) : c.code = level c := by cases c <;> rfl
    have edges_code (e : EdgeSet) : e.code = edges e := by cases e <;> rfl
    obtain ⟨c0, c1, c2, c3, c4⟩ := s.causes_getLsbD
    refine ⟨⟨alone rfl (by decide), field (by repeat constructor), ?_,
      field (by repeat constructor), ?_⟩, ?_, ?_, ?_, fun n => ?_, ?_, fun x => ?_, fun i => ?_, ?_,
      fun h r hr => ?_, fun h r hr => ?_, ?_⟩
    · exact (field (f := s.port.cmdResult.code.code) (by repeat constructor)).trans
        (by cases s.port.cmdResult.code <;> rfl)
    · exact (field (f := s.port.portErr.cause.code) (by repeat constructor)).trans
        (by cases s.port.portErr.cause <;> rfl)
    · rw [cause 0 (by decide), cause 1 (by decide), cause 2 (by decide), cause 3 (by decide),
        cause 4 (by decide), c0, c1, c2, c3, c4]
      exact ⟨s.evqReady_iff, rfl, s.capqReady_iff, rfl, rfl, alone rfl (by decide)⟩
    · have source : bit .tbStatus 19 = s.tb.tick.source.code.getLsbD 0 :=
        FieldAt.bit (by repeat constructor)
      refine ⟨flag (by repeat constructor), ?_, field (by repeat constructor),
        flag (by repeat constructor), flag (by repeat constructor), ?_, ?_,
        ⟨field (by repeat constructor), field (by repeat constructor)⟩,
        ⟨field (by repeat constructor), field (by repeat constructor)⟩,
        ⟨field (by repeat constructor), field (by repeat constructor)⟩, alone rfl (by decide), rfl⟩
      · exact (field (f := s.tb.state.code) (by repeat constructor)).trans
          (by cases s.tb.state <;> rfl)
      · rw [source]
        exact TickSource.code_bit _
      · exact (field (f := dividerSetCode s.tb.tick.set) (by repeat constructor)).trans
          (by cases s.tb.tick.set <;> rfl)
    · refine ⟨field (by repeat constructor), flag (by repeat constructor), fun h => ?_, rfl, rfl, rfl⟩
      exact if_neg (by simp [State.initBusy, h])
    · intro l
      have policy : bit (.laneCfg n) 4 = decide (l.cfg.policy = .fault) :=
        flag (by repeat constructor)
      refine ⟨(field (by repeat constructor)).trans (level_code _),
        (field (by repeat constructor)).trans (level_code _), ?_, flag (by repeat constructor), ?_,
        field (by repeat constructor), flag (by repeat constructor), field (by repeat constructor),
        flag (by repeat constructor), flag (by repeat constructor), field (by repeat constructor),
        flag (by repeat constructor), flag (by repeat constructor), flag (by repeat constructor),
        field (by repeat constructor), field (by repeat constructor), field (by repeat constructor),
        ?_⟩
      · rw [policy]
        exact decide_eq_true_iff
      · exact (field (f := l.state.code) (by repeat constructor)).trans (by cases l.state <;> rfl)
      · refine (field (f := l.activeTag) (by repeat constructor)).trans ?_
        unfold Lane.activeTag
        cases l.queue.active <;> rfl
    · exact ⟨fun g => alone rfl (by decide), field (by repeat constructor),
        field (by repeat constructor), field (by repeat constructor), field (by repeat constructor)⟩
    · intro c
      have phase : bit (.carCtrl x) 8 = (levelBit c.phase).getLsbD 0 :=
        FieldAt.bit (by repeat constructor)
      refine ⟨flag (by repeat constructor), field (by repeat constructor), ?_,
        field (by repeat constructor), field (by repeat constructor), carWidth_none, fun p hp => ?_⟩
      · rw [phase]
        exact levelBit_bit _
      · have pending : c.pair.getD ⟨0, 0⟩ = p := by rw [hp, Option.getD_some]
        exact ⟨(field (f := (c.pair.getD ⟨0, 0⟩).low) (by repeat constructor)).trans
            (congrArg _ pending),
          (field (f := (c.pair.getD ⟨0, 0⟩).high) (by repeat constructor)).trans
            (congrArg _ pending)⟩
    · intro l
      have high : bit .inLevel i.num = decide (l.accepted = some .high) := by
        cases i <;> exact flag (by repeat constructor)
      refine ⟨field (by repeat constructor), field (by repeat constructor),
        (field (by repeat constructor)).trans (edges_code _),
        (field (by repeat constructor)).trans (edges_code _), field (by repeat constructor), ?_, ?_⟩
      · rw [high]
        exact decide_eq_true_iff
      · cases i <;> exact flag (by repeat constructor)
    · exact ⟨field (by repeat constructor), field (by repeat constructor),
        field (by repeat constructor), field (by repeat constructor), field (by repeat constructor),
        field (by repeat constructor)⟩
    · simp only [List.mem_cons, List.not_mem_nil, or_false] at hr
      rcases hr with rfl | rfl | rfl <;> simp only [readReg, State.captureHead, h]
    · simp only [List.mem_cons, List.not_mem_nil, or_false] at hr
      rcases hr with rfl | rfl | rfl | rfl <;> simp only [readReg, State.eventHead, h]
    · obtain ⟨⟨hostStatus, cmdResult, intStatus, intEnable, portErr⟩,
        ⟨tbCtrl, tbStatus, tbDiv, tbTrim⟩, ptr, ⟨groupStatus, members⟩, ⟨inLevel, inCfg⟩,
        ⟨capq, evq⟩, carCtrl, lanes⟩ := readReg_masked s
      simp only [List.forall_mem_append, List.forall_mem_map, List.forall_mem_flatMap,
        List.forall_mem_cons]
      exact ⟨⟨⟨⟨⟨hostStatus, cmdResult, intStatus, intEnable, portErr, tbCtrl, tbStatus, tbDiv _,
        tbDiv _, tbDiv _, tbTrim, ptr, groupStatus, inLevel, capq, evq, List.forall_mem_nil _⟩,
        members _, members _, List.forall_mem_nil _⟩, carCtrl _, carCtrl _, List.forall_mem_nil _⟩,
        fun i _ => inCfg i⟩, fun n _ => ⟨(lanes n).1, (lanes n).2.1, (lanes n).2.2,
          List.forall_mem_nil _⟩⟩

end Sys2Proof.Machine
end

/-! ## Every step keeps the lanes (R42, R51, R65, R67, R78, R84, R86) -/

section
namespace Sys2Proof.Machine

/-! ### The lanes' agreement and the changes that do not touch it -/

/-- Two lanes agree in all that `Lane.Ok` reads. -/
structure Lane.Alike (l m : Lane) : Prop where
  state : m.state = l.state
  active : m.queue.active.isSome = l.queue.active.isSome
  pending : m.queue.pending = l.queue.pending
  stack : m.stack = l.stack
  zeroRun : m.zeroRun = l.zeroRun

theorem Lane.Alike.refl (l : Lane) : l.Alike l := ⟨rfl, rfl, rfl, rfl, rfl⟩

theorem Lane.Alike.trans {l m k : Lane} (h : l.Alike m) (i : m.Alike k) : l.Alike k :=
  ⟨i.state.trans h.state, i.active.trans h.active, i.pending.trans h.pending,
    i.stack.trans h.stack, i.zeroRun.trans h.zeroRun⟩

theorem Lane.Ok.of_alike {l m : Lane} (h : l.Ok) (k : l.Alike m) : m.Ok := by
  unfold Lane.Ok
  rw [k.state, k.active, k.pending, k.stack, k.zeroRun]
  exact h

/-- The bounds of a lane's stack, its frames and its zero-run count (R51, R65). -/
def Lane.Bounded (l : Lane) : Prop :=
  l.stack.length ≤ 4 ∧ (∀ f ∈ l.stack, f.Ok) ∧ l.zeroRun ≤ 16

theorem Lane.Ok.bounded {l : Lane} (h : l.Ok) : l.Bounded := h.2.2

/-- A lane without frames is within its bounds. -/
theorem Lane.Bounded.of_nil {l : Lane} (h : l.stack = []) (hz : l.zeroRun ≤ 16) : l.Bounded := by
  rw [Lane.Bounded, h]
  exact ⟨by decide, List.forall_mem_nil _, hz⟩

/-- One more zero-duration step, where the count has not reached 16 (R51). -/
theorem Lane.Bounded.succ {l m : Lane} (h : l.Bounded) (hs : m.stack = l.stack)
    (hz : m.zeroRun ≤ 16) : m.Bounded := by
  rw [Lane.Bounded, hs]
  exact ⟨h.1, h.2.1, hz⟩

/-- A frame is pushed on a stack with room (R58, R60). -/
theorem Lane.Bounded.push {l m : Lane} (h : l.Bounded) {f : StackFrame} (hf : f.Ok)
    (hs : m.stack = f :: l.stack) (room : l.stack.length < 4) (hz : m.zeroRun = l.zeroRun) :
    m.Bounded := by
  rw [Lane.Bounded, hs, hz]
  exact ⟨room, List.forall_mem_cons.2 ⟨hf, h.2.1⟩, h.2.2⟩

/-- A lane at a launch. -/
theorem Lane.Ok.of_active {l : Lane}
    (state : l.state = .armed ∨ l.state = .running ∨ l.state = .waiting)
    (active : l.queue.active.isSome = true) (bounds : l.Bounded) : l.Ok := by
  refine ⟨⟨fun _ => state, fun _ => active⟩, fun _ idle => ?_, bounds⟩
  rw [idle] at state
  exact absurd state (by decide)

/-- An IDLE lane with nothing behind it. -/
theorem Lane.Ok.of_idle {l : Lane} (state : l.state = .idle) (active : l.queue.active = none)
    (pending : l.queue.pending = []) (bounds : l.Bounded) : l.Ok := by
  refine ⟨?_, fun h => absurd pending h, bounds⟩
  rw [active, state]
  decide

theorem Lane.Ok.state_of_active {l : Lane} (h : l.Ok) (active : l.queue.active.isSome = true) :
    l.state = .armed ∨ l.state = .running ∨ l.state = .waiting := h.1.1 active

theorem Lane.Ok.active_of_state {l : Lane} (h : l.Ok)
    (state : l.state = .armed ∨ l.state = .running ∨ l.state = .waiting) :
    l.queue.active.isSome = true := h.1.2 state

/-- Fault entry leaves a lane in agreement, however it stood (R67). -/
theorem Lane.faulted_ok (c : FaultCause) (l : Lane) : (l.faulted c).Ok :=
  ⟨by simp [Lane.faulted], fun _ => nofun, Lane.Bounded.of_nil rfl (Nat.zero_le _)⟩

/-- So does ABORT (R93). -/
theorem Lane.aborted_ok (l : Lane) : l.aborted.Ok :=
  .of_idle rfl rfl rfl (.of_nil rfl (Nat.zero_le _))

/-- A lane that activates a descriptor (R78). -/
theorem Lane.Bounded.armedOn {l : Lane} (h : l.Bounded) (d : Descriptor) (rest : List Descriptor) :
    (l.armedOn d rest).Ok :=
  .of_active (.inl rfl) rfl (h.succ rfl (Nat.zero_le _))

/-- Every lane but lane n is in agreement. -/
def State.OthersOk (s : State) (n : LaneId) : Prop := ∀ m, m ≠ n → (s.lane m).Ok

theorem State.LanesOk.others {s : State} (h : s.LanesOk) (n : LaneId) : s.OthersOk n :=
  fun m _ => h m

theorem State.OthersOk.setLane {s : State} {n : LaneId} {l : Lane} (h : s.OthersOk n) (hl : l.Ok) :
    (s.setLane n l).LanesOk := by
  intro m
  rw [State.lane_setLane]
  split
  · exact hl
  · next hm => exact h m hm

theorem State.OthersOk.setLane_others {s : State} {n : LaneId} (h : s.OthersOk n) (l : Lane) :
    (s.setLane n l).OthersOk n := by
  intro m hm
  rw [State.lane_setLane_ne _ _ hm]
  exact h m hm

theorem State.OthersOk.report {s : State} {n : LaneId} (h : s.OthersOk n) (r : Result) (i : Index) :
    (s.report r i).OthersOk n := h

theorem State.LanesOk.setLane {s : State} {n : LaneId} {l : Lane} (h : s.LanesOk) (hl : l.Ok) :
    (s.setLane n l).LanesOk := (h.others n).setLane hl

/-- Two states whose lanes are alike. -/
structure State.LanesAlike (s t : State) : Prop where
  lane : ∀ n, (s.lane n).Alike (t.lane n)

theorem State.LanesAlike.of_lanes {s t : State} (h : t.lanes = s.lanes) : s.LanesAlike t :=
  ⟨fun n => by rw [State.lane, State.lane, h]; exact .refl _⟩

theorem State.LanesAlike.build {s t : State} {f : LaneId → Lane → Lane}
    (hf : ∀ (n : LaneId) (l : Lane), l.Alike (f n l))
    (h : t.lanes = PerLane.build fun n => f n (s.lane n)) : s.LanesAlike t :=
  ⟨fun n => by
    rw [show t.lane n = f n (s.lane n) by rw [State.lane, h, PerLane.get_build]]
    exact hf n _⟩

theorem State.LanesAlike.setLane {s : State} {n : LaneId} {l : Lane} (h : (s.lane n).Alike l) :
    s.LanesAlike (s.setLane n l) := by
  refine ⟨fun m => ?_⟩
  rw [State.lane_setLane]
  split
  · next hm => exact hm ▸ h
  · exact .refl _

/-- A change of one lane and of what is no lane. -/
theorem State.LanesAlike.of_setLane {s t : State} {n : LaneId} {l : Lane}
    (h : t.lanes = s.lanes.set n l) (alike : (s.lane n).Alike l) : s.LanesAlike t := by
  refine ⟨fun m => ?_⟩
  rw [show t.lane m = (s.setLane n l).lane m by rw [State.lane, h]; rfl]
  exact (State.LanesAlike.setLane alike).lane m

theorem State.LanesAlike.trans {s t u : State} (h : s.LanesAlike t) (k : t.LanesAlike u) :
    s.LanesAlike u := ⟨fun n => (h.lane n).trans (k.lane n)⟩

theorem State.LanesAlike.ok {s t : State} (h : s.LanesAlike t) (hs : s.LanesOk) : t.LanesOk :=
  fun n => (hs n).of_alike (h.lane n)

theorem State.LanesAlike.othersOk {s t : State} (h : s.LanesAlike t) {n : LaneId}
    (hs : s.OthersOk n) : t.OthersOk n := fun m hm => (hs m hm).of_alike (h.lane m)

theorem offerInfo_lanes (b : EventBody) (s : State) : (offerInfo b s).lanes = s.lanes := by
  rcases offerInfo_cases b s with ⟨-, h⟩ | ⟨-, h⟩ <;> rw [h]

theorem offerCapture_lanes (r : CaptureRecord) (s : State) :
    (offerCapture r s).lanes = s.lanes := by
  rcases offerCapture_cases r s with ⟨-, h⟩ | ⟨-, h⟩ <;> rw [h]

theorem postTerminal_alike (n : LaneId) (d : Descriptor) (b : EventBody) (s : State) :
    s.LanesAlike (postTerminal n d b s) := by
  rcases postTerminal_cases n d b s with ⟨-, h⟩ | ⟨-, h⟩ <;> rw [h]
  · exact .of_lanes rfl
  · exact .of_setLane rfl ⟨rfl, rfl, rfl, rfl, rfl⟩

theorem flushPending_alike (n : LaneId) (ds : List Descriptor) (s : State) :
    s.LanesAlike (flushPending n ds s) := by
  unfold flushPending
  induction ds generalizing s with
  | nil => exact .of_lanes rfl
  | cons d rest ih => exact (postTerminal_alike ..).trans (ih _)

theorem endSegment_alike (c : Carrier) (x : CarrierId) (l : Lane) : l.Alike (endSegment c x l) := by
  unfold endSegment
  split <;> exact ⟨rfl, rfl, rfl, rfl, rfl⟩

theorem beginSegment_alike (x : CarrierId) (l : Lane) : l.Alike (beginSegment x l) := by
  unfold beginSegment
  split
  · exact ⟨rfl, rfl, rfl, rfl, rfl⟩
  · split <;> exact ⟨rfl, rfl, rfl, rfl, rfl⟩

theorem judgeSegment_alike (cs : PerCarrier Carrier) (a b : Lane) :
    b.Alike (judgeSegment cs a b) := by
  have ended : b.Alike (match a.called with
      | some x => endSegment (cs.get x) x b
      | none => b) := by
    split
    · exact endSegment_alike ..
    · exact .refl b
  unfold judgeSegment
  split
  · exact .refl b
  · dsimp only
    split
    · exact ended.trans (beginSegment_alike ..)
    · exact ended

/-- The end of an event changes gates and trails alone. -/
theorem settle_alike (s t : State) : t.LanesAlike (settle s t) := by
  refine ⟨fun n => ?_⟩
  rw [settle_lane]
  exact judgeSegment_alike ..

/-! ### Faults, releases, activation and retirement -/

theorem enterFault_lanesOk {n : LaneId} {s : State} (h : s.OthersOk n) (c : FaultCause) :
    (enterFault c n s).LanesOk := by
  have entered : (s.setLane n ((s.lane n).faulted c)).LanesOk := h.setLane (Lane.faulted_ok ..)
  unfold enterFault
  dsimp only
  split
  · exact entered
  · exact (postTerminal_alike ..).ok entered

theorem foldl_lanesOk {β : Type} {f : State → β → State}
    (hf : ∀ s b, s.LanesOk → (f s b).LanesOk) (l : List β) {s : State} (h : s.LanesOk) :
    (l.foldl f s).LanesOk := by
  induction l generalizing s with
  | nil => exact h
  | cons b rest ih => exact ih (hf s b h)

/-- A fault leaves its lane in agreement, however it stood, and every lane it breaks (R67, R121). -/
theorem faultLane_lanesOk {n : LaneId} {s : State} (h : s.OthersOk n) (c : FaultCause) :
    (faultLane c n s).LanesOk :=
  foldl_lanesOk (fun _ m ht => enterFault_lanesOk (ht.others m) _) _
    (enterFault_lanesOk (s := (breakBarriers [n] (depart n s)).1) h c)

theorem Lane.meetStart_alike (l : Lane) : l.Alike l.meetStart :=
  ⟨rfl, by simp [Lane.meetStart], rfl, rfl, rfl⟩

theorem Lane.releaseBetween_alike (l : Lane) : l.Alike l.releaseBetween := by
  unfold Lane.releaseBetween
  split
  case h_2 => exact l.meetStart_alike.trans ⟨rfl, rfl, rfl, rfl, rfl⟩
  all_goals exact ⟨rfl, rfl, rfl, rfl, rfl⟩

/-- What an operation inside an event leaves: lanes in agreement, and work in which a step stands
only alone, at a lane with a launch, so that the step is the next piece of work taken. -/
structure LeavesSound (r : State × List Work) : Prop where
  lanes : r.1.LanesOk
  work : (∀ n a, .step n a ∉ r.2) ∨
    ∃ n a, r.2 = [.step n a] ∧ (r.1.lane n).queue.active.isSome = true

theorem LeavesSound.noWork {s : State} (h : s.LanesOk) : LeavesSound (s, []) :=
  ⟨h, .inl fun _ _ => List.not_mem_nil⟩

theorem LeavesSound.start {s : State} {n : LaneId} (h : s.LanesOk) : LeavesSound (s, [.start n]) :=
  ⟨h, .inl fun _ _ hw => by simp at hw⟩

theorem LeavesSound.step {s : State} {n : LaneId} {a : Addr} (h : s.LanesOk)
    (active : (s.lane n).queue.active.isSome = true) : LeavesSound (s, [.step n a]) :=
  ⟨h, .inr ⟨n, a, rfl, active⟩⟩

/-- A step behind the change of its own lane. -/
theorem LeavesSound.setLane_step {s : State} {n : LaneId} {l : Lane} {a : Addr}
    (h : s.OthersOk n) (hl : l.Ok) (active : l.queue.active.isSome = true) :
    LeavesSound (s.setLane n l, [.step n a]) :=
  .step (h.setLane hl) (by rwa [State.lane_setLane_self])

theorem LeavesSound.fault {n : LaneId} {s : State} {c : FaultCause} (h : s.OthersOk n) :
    LeavesSound (faultLane c n s, []) := .noWork (faultLane_lanesOk h c)

theorem releaseGroup_alike (g : GroupId) (b : Bool) (s : State) :
    s.LanesAlike (releaseGroup g b s).1 := by
  have offered (x : Group) (e : EventBody) : s.LanesAlike (offerInfo e (s.setGroup g x)) :=
    .of_lanes (offerInfo_lanes ..)
  unfold releaseGroup
  dsimp only
  split
  · exact offered _ _
  · refine (offered _ _).trans (.build (f := fun m l =>
      if LaneSet.has (s.group g).arrived m then l.releaseBetween else l) (fun m l => ?_) rfl)
    split
    · exact l.releaseBetween_alike
    · exact .refl l

/-- A release leaves the turns of the released lanes, and no step (R116). -/
theorem releaseGroup_work (g : GroupId) (b : Bool) (s : State) (n : LaneId) (a : Addr) :
    .step n a ∉ (releaseGroup g b s).2 := by
  unfold releaseGroup
  dsimp only
  split
  · simp
  · exact List.not_mem_nil

theorem LeavesSound.arrive {s : State} {g : GroupId} {n : LaneId} {b : Bool} (h : s.LanesOk) :
    LeavesSound (arrive g n b s) := by
  unfold Machine.arrive
  dsimp only
  split
  · exact ⟨(releaseGroup_alike ..).ok h, .inl (releaseGroup_work _ _ _)⟩
  · exact .noWork h

theorem LeavesSound.startNow {s : State} {n : LaneId} {b : Bool} (h : s.LanesOk) :
    LeavesSound (startNow n b s) := by
  unfold Machine.startNow
  split
  · exact .start h
  · exact .noWork ((State.LanesAlike.setLane (Lane.meetStart_alike _)).ok h)

theorem LeavesSound.applyStart {s : State} {n : LaneId} {c : StartCond} {b : Bool} (h : s.LanesOk) :
    LeavesSound (applyStart n c b s) := by
  unfold Machine.applyStart
  split
  · exact .startNow h
  · split
    · exact .noWork h
    · exact .startNow h
  · exact .noWork h
  · split
    · exact .fault (h.others n)
    · split
      · exact .fault (h.others n)
      · exact .arrive h

/-- An activation brings its lane into agreement, where it finds a descriptor (R78). -/
theorem LeavesSound.activate {n : LaneId} {b : Bool} {s : State} (h : s.OthersOk n)
    (bounds : (s.lane n).Bounded) (none : (s.lane n).queue.pending = [] → (s.lane n).Ok) :
    LeavesSound (activate n b s) := by
  unfold Machine.activate
  dsimp only
  split
  · next hp => exact .noWork fun m => if hm : m = n then hm ▸ none hp else h m hm
  · next d rest _ => exact .applyStart (h.setLane (bounds.armedOn d rest))

/-- A retirement leaves its lane IDLE, or activated on the next descriptor (R86). -/
theorem LeavesSound.retire {s : State} {n : LaneId} {e : Ending} {b : Bool} (h : s.LanesOk) :
    LeavesSound (retire n e b s) := by
  unfold Machine.retire
  dsimp only
  split
  · exact .noWork h
  · next a _ =>
    have bounds : ((s.lane n).retired a.desc.rest).Bounded := .of_nil rfl (h n).bounded.2.2
    have posted := postTerminal_alike n a.desc (.done n a.desc.tag (doneFields (s.lane n) a e))
      (s.setLane n ((s.lane n).retired a.desc.rest))
    have others := posted.othersOk ((h.others n).setLane_others _)
    have alike := posted.lane n
    rw [State.lane_setLane_self] at alike
    have stack := alike.stack
    have zeroRun := alike.zeroRun.trans_le bounds.2.2
    split
    · next hp =>
      have inactive := Option.isNone_iff_eq_none.1 (Option.isSome_eq_false_iff.1 alike.active)
      exact .noWork (others.setLane (.of_idle rfl inactive (alike.pending.trans hp)
        (.of_nil stack zeroRun)))
    · next d rest hp =>
      refine .activate others (.of_nil stack zeroRun) (fun none => ?_)
      rw [alike.pending] at none
      exact nomatch hp.symm.trans none

/-! ### Steps -/

theorem LeavesSound.endPass {s : State} {n : LaneId} (h : s.LanesOk) :
    LeavesSound (endPass n s) := by
  unfold Machine.endPass
  dsimp only
  split
  · exact .noWork h
  · next a ha =>
    have counted (p : BitVec 16) : (s.setLane n { s.lane n with passesDone := p }).LanesOk :=
      h.setLane ((h n).of_alike ⟨rfl, rfl, rfl, rfl, rfl⟩)
    split
    · exact .retire (counted _)
    · split
      · exact .retire (counted _)
      · exact .step (counted _) (by rw [State.lane_setLane_self, ha]; rfl)

/-- A step at a lane with a launch: what it pushes is within the stack, and what it leaves is a step
of the same lane, or the turns of released lanes (R49, R58 to R64). -/
theorem LeavesSound.executeStep {r : StepRecord} {n : LaneId} {s : State} {a : Addr}
    (hr : r.legal = true) (h : s.LanesOk) (active : (s.lane n).queue.active.isSome = true) :
    LeavesSound (executeStep n a r s) := by
  have others := h.others n
  have ok := h n
  have stands := ok.state_of_active active
  obtain ⟨room, frames, count⟩ := ok.bounded
  unfold Machine.executeStep
  dsimp only
  split
  · exact .noWork (h.setLane (.of_active (.inr (.inl rfl)) active ⟨room, frames, Nat.zero_le _⟩))
  · exact .noWork (h.setLane (.of_active (.inr (.inr rfl)) active ⟨room, frames, Nat.zero_le _⟩))
  · split
    · exact .arrive (h.setLane (.of_active (.inr (.inr rfl)) active ⟨room, frames, count⟩))
    · exact .arrive (h.setLane (.of_active (.inr (.inr rfl)) active ⟨room, frames, Nat.zero_le _⟩))
  · next c =>
    split
    · next free =>
      have frame : (StackFrame.loop (a + 1) c).Ok := of_decide_eq_true (p := c ≠ 0) hr
      exact .setLane_step others
        (.of_active stands active (ok.bounded.push frame rfl free rfl)) active
    · exact .fault others
  · split
    · next body k rest hs =>
      rw [hs] at room frames
      obtain ⟨frame, below⟩ := List.forall_mem_cons.1 frames
      split
      · exact .setLane_step others
          (.of_active stands active ⟨Nat.le_of_succ_le room, below, count⟩) active
      · next more =>
        have left : (StackFrame.loop body (k - 1)).Ok := by
          simp only [StackFrame.Ok, ne_eq]
          bv_omega
        exact .setLane_step others
          (.of_active stands active ⟨room, List.forall_mem_cons.2 ⟨left, below⟩, count⟩) active
    · exact .fault others
  · split
    · next free =>
      exact .setLane_step others
        (.of_active stands active (ok.bounded.push (f := .sub (a + 1)) trivial rfl free rfl))
        active
    · exact .fault others
  · split
    · next ret rest hs =>
      rw [hs] at room frames
      exact .setLane_step others (.of_active stands active
        ⟨Nat.le_of_succ_le room, (List.forall_mem_cons.1 frames).2, count⟩) active
    · exact .fault others
  · exact .step h active
  · next v =>
    have alike : s.LanesAlike (offerInfo (.mark n v a) s) := .of_lanes (offerInfo_lanes ..)
    exact .step (alike.ok h) ((alike.lane n).active.trans active)
  · exact .step (s := setPendingPair ..) h active
  · split
    · exact .endPass h
    · exact .fault others

theorem LeavesSound.budgetStep {r : StepRecord} {n : LaneId} {s : State} {a : Addr}
    (hr : r.legal = true) (h : s.LanesOk) (active : (s.lane n).queue.active.isSome = true) :
    LeavesSound (budgetStep n a r s) := by
  unfold Machine.budgetStep
  split
  · split
    · exact .fault (h.others n)
    · next below =>
      have stands := (h n).state_of_active active
      have bounds := (h n).bounded.succ (m := { s.lane n with zeroRun := (s.lane n).zeroRun + 1 })
        rfl (by dsimp only; omega)
      exact .executeStep hr (h.setLane (.of_active stands active bounds))
        (by rwa [State.lane_setLane_self])
  · exact .executeStep hr h active

theorem LeavesSound.takeStep {n : LaneId} {s : State} {a : Addr} (h : s.LanesOk)
    (active : (s.lane n).queue.active.isSome = true) : LeavesSound (takeStep n a s) := by
  have begun : (s.setLane n ((s.lane n).beginStep a)).LanesOk :=
    h.setLane ((h n).of_alike ⟨rfl, rfl, rfl, rfl, rfl⟩)
  have active' : ((s.setLane n ((s.lane n).beginStep a)).lane n).queue.active.isSome = true := by
    rwa [State.lane_setLane_self]
  unfold Machine.takeStep
  dsimp only
  split
  · exact .fault (begun.others n)
  · next r hr =>
    have legal := decodeStep_legal hr
    split
    · exact .retire begun
    · split
      · split
        · exact .fault (begun.others n)
        · split
          · exact .fault (begun.others n)
          · exact .budgetStep legal begun active'
      · exact .budgetStep legal begun active'

theorem LeavesSound.startLaunch {s : State} {n : LaneId} (h : s.LanesOk) :
    LeavesSound (startLaunch n s) := by
  unfold Machine.startLaunch
  dsimp only
  split
  · exact .noWork h
  · next a ha =>
    have stands := (h n).state_of_active (by rw [ha]; rfl)
    exact .setLane_step (h.others n)
      (.of_active stands rfl (.of_nil rfl (Nat.zero_le _))) rfl

theorem Lane.noteTick_alike (k : DividerSet) (l : Lane) : l.Alike (l.noteTick k) := by
  unfold Lane.noteTick
  split <;> exact ⟨rfl, rfl, rfl, rfl, rfl⟩

theorem LeavesSound.stepReleased {s : State} {n : LaneId} (h : s.LanesOk) :
    LeavesSound (stepReleased n s) := by
  unfold Machine.stepReleased
  dsimp only
  split
  · next hs =>
    have noted : (s.lane n).Alike
        (if (s.lane n).boundaryTaken then s.lane n else (s.lane n).noteTick s.tb.handedSet) := by
      split
      · exact .refl _
      · exact Lane.noteTick_alike ..
    have alike := noted.trans (k := { (if (s.lane n).boundaryTaken then s.lane n
      else (s.lane n).noteTick s.tb.handedSet) with
        boundaryTaken := true, waitSource := none, waitSatisfied := false })
      ⟨rfl, rfl, rfl, rfl, rfl⟩
    exact .setLane_step (h.others n) ((h n).of_alike alike)
      (alike.active.trans ((h n).active_of_state (.inr (.inr hs))))
  · exact .start (h.setLane ((h n).of_alike ⟨rfl, rfl, rfl, rfl, rfl⟩))
  all_goals exact LeavesSound.noWork h

/-- The run keeps the lanes: a step is taken as soon as it is left, at a lane with a launch, and the
work behind it is turns and starts, which look at their lane when they come. -/
theorem runWork_lanesOk (k : Nat) {r : State × List Work} (h : LeavesSound r) (rest : List Work)
    (hrest : ∀ n a, .step n a ∉ rest) : (runWork k (r.2 ++ rest) r.1).1.LanesOk := by
  induction k generalizing r rest with
  | zero =>
    have stops : (runWork 0 (r.2 ++ rest) r.1).1 = r.1 := by cases r.2 ++ rest <;> rfl
    rw [stops]
    exact h.lanes
  | succ k ih =>
    obtain ⟨lanes, ⟨none⟩ | ⟨n, a, hw, active⟩⟩ := h
    · have behind (m : LaneId) (b : Addr) : .step m b ∉ r.2 ++ rest := by
        rw [List.mem_append, not_or]
        exact ⟨none m b, hrest m b⟩
      cases hws : r.2 ++ rest with
      | nil => exact lanes
      | cons w ws =>
        rw [hws] at behind
        have later (m : LaneId) (b : Addr) : .step m b ∉ ws :=
          fun hm => behind m b (List.mem_cons_of_mem _ hm)
        cases w with
        | step m b => exact absurd List.mem_cons_self (behind m b)
        | start m => exact ih (LeavesSound.startLaunch lanes) ws later
        | released m => exact ih (LeavesSound.stepReleased lanes) ws later
    · rw [hw]
      exact ih (.takeStep lanes active) rest hrest

/-! ### A lane's own event -/

theorem LeavesSound.landSplice {s : State} {n : LaneId} (h : s.LanesOk) :
    LeavesSound (landSplice n s) := .retire (s := depart n s) h

theorem LeavesSound.expireWait {s : State} {n : LaneId} (h : s.LanesOk)
    (active : (s.lane n).queue.active.isSome = true) : LeavesSound (expireWait n s) := by
  have left : (depart n
      (s.setLane n { s.lane n with waitSource := none, waitSatisfied := false })).LanesOk :=
    h.setLane ((h n).of_alike ⟨rfl, rfl, rfl, rfl, rfl⟩)
  have active' : ((depart n (s.setLane n { s.lane n with
      waitSource := none, waitSatisfied := false })).lane n).queue.active.isSome = true := by
    change ((s.setLane n _).lane n).queue.active.isSome = true
    rwa [State.lane_setLane_self]
  unfold Machine.expireWait
  dsimp only
  split
  · exact .fault (left.others n)
  · split
    · exact .step ((State.LanesAlike.of_lanes (offerInfo_lanes ..)).ok left)
        (((State.LanesAlike.of_lanes (offerInfo_lanes ..)).lane n).active.trans active')
    · exact .step left active'

theorem LeavesSound.armedBoundary {s : State} {n : LaneId} (h : s.LanesOk) :
    LeavesSound (armedBoundary n s) := by
  unfold Machine.armedBoundary
  split
  · exact .landSplice h
  · split
    · exact .start h
    · exact .noWork h

theorem LeavesSound.runningBoundary {s : State} {n : LaneId} (h : s.LanesOk)
    (active : (s.lane n).queue.active.isSome = true) : LeavesSound (runningBoundary n s) := by
  have counted := (h n).of_alike
    (m := { s.lane n with remaining := (s.lane n).remaining - 1 }) ⟨rfl, rfl, rfl, rfl, rfl⟩
  unfold Machine.runningBoundary
  dsimp only
  split
  · exact .setLane_step (h.others n) counted active
  · exact .noWork (h.setLane counted)

theorem LeavesSound.waitingBoundary {s : State} {n : LaneId} (h : s.LanesOk)
    (active : (s.lane n).queue.active.isSome = true) : LeavesSound (waitingBoundary n s) := by
  have counted (r : BitVec 20) :=
    (h n).of_alike (m := { s.lane n with remaining := r }) ⟨rfl, rfl, rfl, rfl, rfl⟩
  unfold Machine.waitingBoundary
  dsimp only
  split
  · exact .landSplice h
  · split
    · exact .setLane_step (h.others n) ((h n).of_alike ⟨rfl, rfl, rfl, rfl, rfl⟩) active
    · split
      · exact .noWork h
      · split
        · exact .expireWait (h.setLane (counted 0)) (by rwa [State.lane_setLane_self])
        · exact .noWork (h.setLane (counted _))

theorem LeavesSound.ownActions {s : State} {n : LaneId} (h : s.LanesOk) :
    LeavesSound (ownActions n s) := by
  have alike : (s.lane n).Alike ((s.lane n).takeBoundary s.tb.handedSet) :=
    (Lane.noteTick_alike ..).trans ⟨rfl, rfl, rfl, rfl, rfl⟩
  have taken : (s.setLane n ((s.lane n).takeBoundary s.tb.handedSet)).LanesOk :=
    h.setLane ((h n).of_alike alike)
  have active (hs : (s.lane n).state = .armed ∨ (s.lane n).state = .running ∨
      (s.lane n).state = .waiting) :
      ((s.setLane n ((s.lane n).takeBoundary s.tb.handedSet)).lane n).queue.active.isSome
        = true := by
    rw [State.lane_setLane_self]
    exact alike.active.trans ((h n).active_of_state hs)
  unfold Machine.ownActions
  dsimp only
  split
  · exact .noWork (h.setLane ((h n).of_alike ⟨rfl, rfl, rfl, rfl, rfl⟩))
  · split
    · exact .noWork taken
    · split
      · exact .armedBoundary taken
      · next hs => exact .runningBoundary taken (active (.inr (.inl hs)))
      · next hs => exact .waitingBoundary taken (active (.inr (.inr hs)))
      all_goals exact LeavesSound.noWork taken

theorem laneEvent_lanesOk {n : LaneId} {s t : State} (hs : s.LanesOk)
    (h : laneEvent n s = .next t) : t.LanesOk := by
  obtain ⟨-, rfl⟩ := laneEvent_next h
  have ran := runWork_lanesOk stepBudget (LeavesSound.ownActions (n := n) hs) []
    fun _ _ => List.not_mem_nil
  rw [List.append_nil] at ran
  exact (settle_alike ..).ok ran

/-! ### The lane commands -/

/-- SUBMIT at an IDLE lane activates what it queues, so that nothing waits behind no launch
(R77). -/
theorem submitTo_lanesOk (n : LaneId) {s : State} (hs : s.LanesOk) : (submitTo n s).LanesOk := by
  unfold submitTo
  split
  · exact hs
  · next d _ =>
    have others := (hs.others n).setLane_others { s.lane n with queue := { (s.lane n).queue with
      pending := (s.lane n).queue.pending ++ [d] } }
    dsimp only
    split
    · refine (settle_alike ..).ok
        (LeavesSound.activate (others.report _ _) ?_ ?_).lanes
      · rw [State.lane_report, State.lane_setLane_self]
        exact (hs n).bounded
      · rw [State.lane_report, State.lane_setLane_self]
        exact fun none => absurd none (by simp)
    · next busy =>
      obtain ⟨active, -, bounds⟩ := hs n
      exact hs.setLane ⟨active, fun _ => busy, bounds⟩

theorem stopAtEnd_lanesOk (n : LaneId) {s : State} (hs : s.LanesOk) : (stopAtEnd n s).LanesOk := by
  unfold stopAtEnd
  dsimp only
  split
  · exact hs
  · exact hs
  · exact hs.setLane ((hs n).of_alike ⟨rfl, rfl, rfl, rfl, rfl⟩)
  · exact hs.setLane ((hs n).of_alike ⟨rfl, rfl, rfl, rfl, rfl⟩)
  · exact (settle_alike s (State.report _ _ _)).ok
      (LeavesSound.retire (s := depart n s) (n := n) (e := .stopped) (b := false) hs).lanes

theorem spliceLane_lanesOk (n : LaneId) {s : State} (hs : s.LanesOk) :
    (spliceLane n s).LanesOk := by
  unfold spliceLane
  dsimp only
  split
  · exact hs
  · exact hs
  · split
    · exact hs.setLane ((hs n).of_alike ⟨rfl, rfl, rfl, rfl, rfl⟩)
    · exact hs

theorem abortLane_lanesOk (n : LaneId) {s : State} (hs : s.LanesOk) : (abortLane n s).LanesOk := by
  have aborted : ((depart n s).setLane n (s.lane n).aborted).LanesOk :=
    State.LanesOk.setLane (s := depart n s) hs (s.lane n).aborted_ok
  unfold abortLane
  dsimp only
  refine (settle_alike s (State.report _ _ _)).ok ((flushPending_alike ..).ok ?_)
  split
  · exact aborted
  · exact (postTerminal_alike ..).ok aborted

/-- CLEAR_FAULT leaves the lane IDLE with nothing behind it, or activated (R94). -/
theorem clearFaultOf_lanesOk (n : LaneId) {s : State} (hs : s.LanesOk) :
    (clearFaultOf n s).LanesOk := by
  unfold clearFaultOf
  dsimp only
  split
  · next faulted =>
    have none : (s.lane n).queue.active = none := by
      by_contra some
      have stands := (hs n).state_of_active (Option.isSome_iff_ne_none.2 some)
      rw [faulted] at stands
      exact absurd stands (by decide)
    refine (settle_alike ..).ok (LeavesSound.activate
      (((hs.others n).setLane_others _).report _ _) ?_ ?_).lanes
    · rw [State.lane_report, State.lane_setLane_self]
      exact (hs n).bounded
    · rw [State.lane_report, State.lane_setLane_self]
      exact fun hp => .of_idle rfl none hp (hs n).bounded
  · exact hs

/-! ### The resets, the register writes and the events of the other units -/

theorem resetLane_ok (cfg : LaneCfg) (due : Bool) :
    Lane.Ok { resetLane cfg with ownDue := due } :=
  .of_idle rfl rfl rfl (.of_nil rfl (Nat.zero_le _))

theorem softResetAll_lanesOk (s : State) : (softResetAll s).LanesOk := by
  intro n
  rw [State.lane, softResetAll, PerLane.get_build]
  exact resetLane_ok ..

theorem hardReset_lanesOk (s : State) : (hardReset s).LanesOk := by
  obtain ⟨-, -, lanes, -⟩ := hardReset_atReset s
  intro n
  rw [lanes]
  exact resetLane_ok resetLaneCfg false

theorem placeDeferred_alike (s : State) : s.LanesAlike (placeDeferred s) := by
  unfold placeDeferred
  split
  · exact .of_lanes rfl
  · next n rest _ =>
    dsimp only
    split
    · exact .of_lanes rfl
    · next held more _ =>
      exact .of_setLane (l := { s.lane n with queue := { (s.lane n).queue with awaiting := more } })
        rfl ⟨rfl, rfl, rfl, rfl, rfl⟩
  · split <;> exact .of_lanes rfl

theorem popEvent_alike (s : State) : s.LanesAlike (popEvent s) := by
  unfold popEvent
  split
  · exact .of_lanes rfl
  · next r rest _ =>
    have popped : s.LanesAlike { s with evq := { s.evq with placed := rest } } := .of_lanes rfl
    exact (popped.trans (placeDeferred_alike _)).trans (.of_lanes rfl)

theorem Lane.openGate_alike (x : CarrierId) (l : Lane) : l.Alike (l.openGate x) := by
  unfold Lane.openGate
  split <;> exact ⟨rfl, rfl, rfl, rfl, rfl⟩

theorem Lane.endTrail_alike (x : CarrierId) (l : Lane) : l.Alike (l.endTrail x) := by
  unfold Lane.endTrail
  split <;> exact ⟨rfl, rfl, rfl, rfl, rfl⟩

theorem Lane.shutGate_alike (x : CarrierId) (l : Lane) : l.Alike (l.shutGate x) := by
  unfold Lane.shutGate
  split <;> exact ⟨rfl, rfl, rfl, rfl, rfl⟩

theorem writeCarCtrl_alike (x : CarrierId) (w : Word) (s : State) :
    s.LanesAlike (writeCarCtrl x w s) := by
  unfold writeCarCtrl
  dsimp only
  split
  · split
    · split
      · exact .of_lanes rfl
      · exact .build (f := fun _ l => (l.shutGate x).endTrail x)
          (fun _ l => (l.shutGate_alike x).trans (Lane.endTrail_alike ..)) rfl
    · exact .of_lanes rfl
  · split
    · exact .build (fun _ => Lane.openGate_alike x) rfl
    · exact .of_lanes rfl

theorem writePmem_alike (w : Word) (s : State) : s.LanesAlike (writePmem w s) := by
  unfold writePmem
  split
  · exact .of_lanes rfl
  · exact .build (f := fun _ => Lane.keepWord s.ptr.addr (s.pmem.read s.ptr.addr))
      (fun _ _ => ⟨rfl, rfl, rfl, rfl, rfl⟩) rfl

theorem writeLaneCfg_alike (n : LaneId) (w : Word) (s : State) :
    s.LanesAlike (writeLaneCfg n w s) := by
  unfold writeLaneCfg
  dsimp only
  split
  · exact .of_lanes rfl
  · exact .of_lanes rfl
  · exact .of_lanes rfl
  all_goals
    split
    · exact .of_lanes rfl
    · next c _ =>
      exact .of_setLane rfl ⟨rfl, rfl, rfl, rfl, rfl⟩

theorem writeGlobalCmd_lanesOk (w : Word) {s : State} (hs : s.LanesOk) :
    (writeGlobalCmd w s).LanesOk := by
  refine writeGlobalCmd_cases (P := State.LanesOk) w (fun _ => hs) (softResetAll_lanesOk s)
    ?_ ?_ ?_ hs
  · unfold useInternal
    dsimp only
    split <;> exact hs
  · unfold useExternal
    dsimp only
    split <;> exact hs
  · unfold rearm
    split <;> exact hs

theorem writeLaneCmd_lanesOk (op : BitVec 4) (lane : BitVec 3) {s : State} (hs : s.LanesOk) :
    (writeLaneCmd op lane s).LanesOk :=
  writeLaneCmd_cases (P := State.LanesOk) op lane (fun _ => hs) (fun n => submitTo_lanesOk n hs)
    (fun n => stopAtEnd_lanesOk n hs) (fun n => spliceLane_lanesOk n hs)
    (fun n => abortLane_lanesOk n hs) (fun n => clearFaultOf_lanesOk n hs)

theorem writeReg_lanesOk (r : Reg) (w : Word) {s : State} (hs : s.LanesOk) :
    (writeReg r w s).LanesOk := by
  cases r with
  | globalCmd => exact writeGlobalCmd_lanesOk w hs
  | laneCmd => exact writeLaneCmd_lanesOk _ _ hs
  | pmemData => exact (writePmem_alike w s).ok hs
  | carCtrl x => exact (writeCarCtrl_alike x w s).ok hs
  | laneCfg n => exact (writeLaneCfg_alike n w s).ok hs
  | evqPop => exact (popEvent_alike s).ok hs
  | tbDiv d => cases d <;> exact hs
  | groupMembers g =>
    unfold writeReg writeMembers
    dsimp only
    split <;> exact hs
  | carWidth x =>
    unfold writeReg writeCarWidth
    dsimp only
    split <;> exact hs
  | inCfg i =>
    unfold writeReg writeInCfg
    dsimp only
    split <;> exact hs
  | capqPop =>
    unfold writeReg popCapture
    dsimp only
    split <;> exact hs
  | _ => exact hs

theorem readAt_lanes (i : Index) (s : State) : (readAt i s).lanes = s.lanes := by
  unfold readAt
  split
  · rfl
  · unfold readPmem
    split <;> rfl
  · rfl

theorem cutWord_lanes (cut : Cut) (s : State) : (cutWord cut s).lanes = s.lanes := by
  unfold cutWord
  split
  · rfl
  · rfl
  · split
    · rfl
    · split <;> rfl
    · rfl

theorem Lane.trigger_alike (i : LineId) (l : Lane) : l.Alike (l.trigger i) := by
  unfold Lane.trigger
  split
  · split <;> exact ⟨rfl, rfl, rfl, rfl, rfl⟩
  · next ha =>
    split
    · exact ⟨rfl, by rw [ha]; rfl, rfl, rfl, rfl⟩
    · exact .refl l
  · exact .refl l

theorem acceptEdge_alike (i : LineId) (e : Edge) (s : State) :
    s.LanesAlike (acceptEdge i e s) := by
  have triggered :
      s.LanesAlike (if (s.input i).trigger.holds e then deliverTrigger i s else s) := by
    split
    · exact .build (fun _ => Lane.trigger_alike i) rfl
    · exact .of_lanes rfl
  unfold acceptEdge
  dsimp only
  split
  · exact triggered.trans (.of_lanes (offerCapture_lanes ..))
  · exact triggered

theorem takeSample_alike (i : LineId) (s : State) : s.LanesAlike (takeSample i s) := by
  unfold takeSample
  dsimp only
  split
  · split
    · exact .of_lanes rfl
    · split
      · exact State.LanesAlike.trans (t := s.setInput i _) (.of_lanes rfl) (acceptEdge_alike ..)
      · exact .of_lanes rfl
  · split <;> exact .of_lanes rfl

theorem tickEnds_alike (s : State) : s.LanesAlike (tickEnds s) :=
  .build (f := fun _ l => { l with
    boundaryTaken := false, ownDue := true, sinceBoundary := false, sight := none })
    (fun _ _ => ⟨rfl, rfl, rfl, rfl, rfl⟩) rfl

theorem boundaryEdge_lanes (s : State) : (boundaryEdge s).lanes = s.lanes := by
  unfold boundaryEdge
  split <;> rfl

theorem lockNow_lanes (s : State) : (lockNow s).lanes = s.lanes := (recordTimebase_frame ..).1

theorem monitorEdge_lanes (s : State) : (monitorEdge s).lanes = s.lanes := by
  unfold monitorEdge
  split
  · split
    · exact lockNow_lanes s
    · rfl
  · split
    · exact lockNow_lanes s
    · rfl
  all_goals rfl

theorem tickEdge_alike (s : State) : s.LanesAlike (tickEdge s) := by
  unfold tickEdge
  split
  · split
    · exact tickEnds_alike s
    · exact .of_lanes rfl
  · exact .of_lanes rfl

theorem faultForLoss_lanesOk {s : State} (hs : s.LanesOk) : (faultForLoss s).LanesOk := by
  have departed : ((lossFaults s).foldl (fun t n => depart n t) s).LanesOk :=
    foldl_lanesOk (f := fun t n => depart n t) (fun _ _ h => h) _ hs
  refine foldl_lanesOk (fun t n ht => ?_) _ (s := (breakBarriers (lossFaults s)
    ((lossFaults s).foldl (fun t n => depart n t) s)).1) departed
  split
  · exact enterFault_lanesOk (ht.others n) _
  · split
    · exact enterFault_lanesOk (ht.others n) _
    · exact ht

theorem detectLoss_lanesOk {s : State} (hs : s.LanesOk) : (detectLoss s).LanesOk := by
  unfold detectLoss
  split
  · exact hs
  · exact hs
  · exact (State.LanesAlike.of_lanes (recordTimebase_frame ..).1).ok (faultForLoss_lanesOk hs)
  · exact hs
  · exact hs

/-! ### Every step -/

theorem CommandEffect.lanesOk {s t : State} (h : CommandEffect s t) (hs : s.LanesOk) :
    t.LanesOk := by
  cases h with
  | written i r w => exact writeReg_lanesOk r w (s := s.advanceFrame .write i) hs
  | laneCommanded op lane => exact writeLaneCmd_lanesOk op lane (s := s.advanceFrame .write _) hs
  | wordRead i =>
    exact (State.LanesAlike.of_lanes (readAt_lanes i (s.advanceFrame .read i))).ok hs
  | frameCut cut =>
    exact (State.LanesAlike.of_lanes (s := s) (t := endCutFrame (cutWord cut s))
      (cutWord_lanes cut s)).ok hs
  | poweredUp m => exact hardReset_lanesOk s
  | released => exact hardReset_lanesOk s
  | laneActed h => exact laneEvent_lanesOk hs h
  | tickEnded => exact ((State.LanesAlike.of_lanes (boundaryEdge_lanes s)).trans
      (tickEnds_alike _)).ok hs
  | edge => exact ((State.LanesAlike.of_lanes (monitorEdge_lanes s)).trans (tickEdge_alike _)).ok hs
  | locked => exact (State.LanesAlike.of_lanes (lockNow_lanes s)).ok hs
  | lossDetected => exact (settle_alike ..).ok (detectLoss_lanesOk hs)
  | highPhaseEnded x => exact (State.LanesAlike.build (fun _ => Lane.endTrail_alike x) rfl).ok hs
  | periodEnded x => exact (State.LanesAlike.build (fun _ => Lane.openGate_alike x) rfl).ok hs
  | sampled i => exact (takeSample_alike i s).ok hs
  | nothing | unmapped | frameHeld | frameBegun | frameEnded | held | cleared | pinChanged =>
    exact hs

theorem clockStep_lanes (s : State) : (clockStep s).lanes = s.lanes := by
  unfold clockStep countPeriod
  dsimp only
  split
  · split <;> rfl
  · rfl

/-- Settles O58: a lane loses its launch only where it faults, comes to IDLE with nothing behind it,
or activates the next one, and a step is taken only at a lane with a launch. -/
theorem stepsKeepTheLanes : Obligations.StepsKeepTheLanes := by
  intro s t hs h
  rcases step_effect h with ⟨c, rest, -, effect⟩ | rfl
  · exact effect.lanesOk hs
  · exact (State.LanesAlike.of_lanes (clockStep_lanes s)).ok hs

end Sys2Proof.Machine
end

/-! ## LANEn_CFG (R43, R109, R170, R176) -/

section
namespace Sys2Proof.Machine

/-- A level code but 3 names a level, and is that level's code (R176). -/
theorem cfgLevelOf_some {c : BitVec 2} (h : c ≠ 3) : ∃ v, cfgLevelOf c = some v ∧ v.code = c := by
  revert c
  decide

theorem cfgLevelOf_three : cfgLevelOf 3 = none := by decide

/-- A LANEn_CFG word with a level code 3 is refused (R43). -/
theorem laneCfgOf_none {w : Word} (h : w.extractLsb' 0 2 = 3 ∨ w.extractLsb' 2 2 = 3) :
    laneCfgOf w = none := by
  unfold laneCfgOf
  rcases h with h | h
  · rw [h, cfgLevelOf_three]
  · rw [h, cfgLevelOf_three]
    cases cfgLevelOf (w.extractLsb' 0 2) <;> rfl

/-- Settles O19: the lane's state is judged first, then the level codes. -/
theorem laneCfgWrite : Obligations.LaneCfgWrite := by
  intro n w s h i l
  have written : exec (.laneCfg n w) s = .next (writeLaneCfg n w (s.wordAt .write i)) :=
    congrArg Host.Outcome.next (hostWord_of_listens h ..)
  have lane : (s.wordAt .write i).lane n = l := rfl
  have atRest (hs : l.state = .idle ∨ l.state = .faulted) :
      writeLaneCfg n w (s.wordAt .write i) =
        match laneCfgOf w with
        | none => (s.wordAt .write i).report .badField i
        | some c =>
          ((s.wordAt .write i).setLane n
            { l with cfg := c, trail := if c.guard then l.trail else none }).report .ok i := by
    rcases hs with hs | hs <;> simp only [writeLaneCfg, lane, hs] <;> rfl
  rw [written]
  refine ⟨fun hs => ?_, fun hs hcode => ?_, fun hs hidle hfault => ?_⟩
  · refine congrArg Host.Outcome.next ?_
    rcases hs with hs | hs | hs <;> simp only [writeLaneCfg, lane, hs] <;> rfl
  · rw [atRest hs, laneCfgOf_none hcode]
  · obtain ⟨idle, hi, idleCode⟩ := cfgLevelOf_some hidle
    obtain ⟨fault, hf, faultCode⟩ := cfgLevelOf_some hfault
    refine ⟨⟨idle, fault, if w.getLsbD 4 then .fault else .continue, w.getLsbD 5⟩, idleCode,
      faultCode, ?_, rfl, ?_⟩
    · cases w.getLsbD 4 <;> simp
    · rw [atRest hs, laneCfgOf, hi, hf]

end Sys2Proof.Machine
end

/-! ## One step at a lane: flow, SIGNAL, TUNE, WAIT on a line (R49 to R53, R58 to R63, R65, R104) -/

section
namespace Sys2Proof.Machine

/-- A step begun at a legal record that is no WAIT on a group, with no splice pending, comes to its
budget check (R49). -/
theorem doWork_budgetStep {n : LaneId} {a : Addr} {s : State} {r : StepRecord}
    (h : decodeStep (s.fetchWord n a) = some r) (hp : (s.lane n).splicePending = false)
    (hg : ∀ g level strict t, r ≠ .wait (.group g) level strict t) :
    doWork (.step n a) s = budgetStep n a r (s.setLane n ((s.lane n).beginStep a)) := by
  simp only [doWork, takeStep, h]
  exact if_neg (by rw [hp]; exact Bool.false_ne_true)

/-! The budget check of a step (R51). -/

theorem budgetStep_spent {n : LaneId} {s : State} {r : StepRecord}
    (h : zeroDuration s n r = true) (hz : 16 ≤ (s.lane n).zeroRun) (a : Addr) :
    budgetStep n a r s = (faultLane .runaway n s, []) :=
  (if_pos h).trans (if_pos hz)

theorem budgetStep_counts {n : LaneId} {s : State} {r : StepRecord}
    (h : zeroDuration s n r = true) (hz : (s.lane n).zeroRun < 16) (a : Addr) :
    budgetStep n a r s =
      executeStep n a r (s.setLane n { s.lane n with zeroRun := (s.lane n).zeroRun + 1 }) :=
  (if_pos h).trans (if_neg (Nat.not_le_of_lt hz))

theorem budgetStep_free {n : LaneId} {s : State} {r : StepRecord}
    (h : ¬ zeroDuration s n r = true) (a : Addr) : budgetStep n a r s = executeStep n a r s :=
  if_neg h

/-- A lane that takes a zero-duration step at address a: the step is begun and counted (R51). -/
def Lane.counted (a : Addr) (l : Lane) : Lane :=
  { l with stepAddr := a, zeroRun := l.zeroRun + 1, sight := some (l.sight.getD []) }

/-- A zero-duration step but a WAIT, with budget left, is executed behind its count (R51). -/
theorem doWork_executeStep {n : LaneId} {a : Addr} {s : State} {r : StepRecord}
    (h : decodeStep (s.fetchWord n a) = some r) (hp : (s.lane n).splicePending = false)
    (hz : (s.lane n).zeroRun < 16) (hh : ∀ level d, r ≠ .hold level d)
    (hw : ∀ src level strict t, r ≠ .wait src level strict t) :
    doWork (.step n a) s = executeStep n a r (s.setLane n ((s.lane n).counted a)) := by
  rw [doWork_budgetStep h hp fun g => hw (.group g),
    budgetStep_counts (zeroDuration_of_ne _ _ hh hw) (by rwa [State.lane_setLane_self]),
    State.lane_setLane_self, State.setLane_setLane]
  rfl

/-! ### Offers are made whatever the lanes and the groups are -/

theorem offerInfo_with (b : EventBody) (s : State) (v : PerLane Lane) (w : PerGroup Group) :
    offerInfo b { s with lanes := v, groups := w }
      = { offerInfo b s with lanes := v, groups := w } := by
  unfold offerInfo
  split <;> rfl

theorem offerInfo_setLane (b : EventBody) (s : State) (n : LaneId) (l : Lane) :
    offerInfo b (s.setLane n l) = (offerInfo b s).setLane n l := by
  have := offerInfo_with b s (s.lanes.set n l) s.groups
  rw [State.setLane, State.setLane, offerInfo_lanes]
  refine this.trans ?_
  unfold offerInfo
  split <;> rfl

/-- Settles O43: each record is executed behind its count, by the room on the stack or its top. -/
theorem flowSteps : Obligations.FlowSteps := by
  intro n a s hp hz l at_
  have executed {r : StepRecord} (h : decodeStep (s.fetchWord n a) = some r)
      (hh : ∀ level d, r ≠ .hold level d)
      (hw : ∀ src level strict t, r ≠ .wait src level strict t) :
      doWork (.step n a) s = executeStep n a r (at_ l.stack) := doWork_executeStep h hp hz hh hw
  have stack (st : List StackFrame) : ((at_ st).lane n).stack = st := by
    rw [State.lane_setLane_self]
  have set (st st' : List StackFrame) :
      (at_ st).setLane n { (at_ st).lane n with stack := st' } = at_ st' := by
    rw [State.lane_setLane_self, State.setLane_setLane]
  refine ⟨fun c h => ?_,
    fun h => ⟨fun body k rest hs hk => ?_, fun body rest hs => ?_, fun hs => ?_⟩,
    fun t h => ?_, fun h => ⟨fun r rest hs => ?_, fun hs => ?_⟩, fun t h => ?_⟩
  · rw [executed h nofun nofun]
    simp only [executeStep, stack, set]
  · rw [executed h nofun nofun]
    simp only [executeStep, stack, hs, set]
    rw [if_neg (by omega)]
  · rw [executed h nofun nofun]
    simp only [executeStep, stack, hs, set]
    rfl
  · rw [executed h nofun nofun]
    rcases hs with hs | ⟨r, rest, hs⟩ <;> simp only [executeStep, stack, hs]
  · rw [executed h nofun nofun]
    simp only [executeStep, stack, set]
  · rw [executed h nofun nofun]
    simp only [executeStep, stack, hs, set]
  · rw [executed h nofun nofun]
    rcases hs with hs | ⟨body, k, rest, hs⟩ <;> simp only [executeStep, stack, hs]
  · rw [executed h nofun nofun]
    rfl

/-- Settles O44: SIGNAL and TUNE are executed behind their count, and a WAIT on a line ends the run
whatever the count. -/
theorem signalTuneAndWaitSteps : Obligations.SignalTuneAndWaitSteps := by
  intro n a s hp l
  refine ⟨fun v h hz => ?_, fun x high low h hz => ?_, fun i level strict t h => ?_⟩
  · rw [doWork_executeStep h hp hz nofun nofun]
    exact congrArg (·, [Work.step n (a + 1)]) (offerInfo_setLane ..)
  · rw [doWork_executeStep h hp hz nofun nofun]
    rfl
  · rw [doWork_budgetStep h hp nofun, budgetStep_free (by exact Bool.false_ne_true)]
    simp only [executeStep, State.lane_setLane_self, State.setLane_setLane]
    rfl

end Sys2Proof.Machine
end

/-! ## Arrivals, activation, and what they leave (R57, R78 to R82, R115 to R118) -/

section
namespace Sys2Proof.Machine

theorem memberFaulted_iff (s : State) (g : GroupId) :
    memberFaulted s g = true ↔
      ∃ m, LaneSet.has (s.group g).members m = true ∧ (s.lane m).state = .faulted := by
  simp only [memberFaulted, List.any_eq_true, LaneSet.mem_toList, decide_eq_true_eq]

theorem completes_iff (s : State) (g : GroupId) (n : LaneId) :
    completes s g n = true ↔ LaneSet.insert (s.group g).arrived n = (s.group g).members :=
  decide_eq_true_iff

theorem LaneSet.has_insert_self (a : LaneSet) (n : LaneId) :
    LaneSet.has (LaneSet.insert a n) n = true := by simp

@[simp] theorem PerGroup.set_set {α : Type} (v : PerGroup α) (g : GroupId) (x y : α) :
    (v.set g x).set g y = v.set g y := by
  cases g <;> rfl

/-- An arrival that is not the last is held (R115). -/
theorem arrive_held {g : GroupId} {n : LaneId} {s : State}
    (h : LaneSet.insert (s.group g).arrived n ≠ (s.group g).members) (b : Bool) :
    arrive g n b s =
      (s.setGroup g { s.group g with arrived := LaneSet.insert (s.group g).arrived n }, []) := by
  unfold arrive
  exact if_neg fun hc => h ((completes_iff ..).1 hc)

/-- The state in which the release of group g by the lanes given has been counted and offered, the
lanes being those given (R116, R118). -/
def State.released (s : State) (g : GroupId) (all : LaneSet) (v : PerLane Lane) : State :=
  { offerInfo (.groupReleased g all ((s.group g).count + 1)) s with
    groups := s.groups.set g { s.group g with arrived := 0, count := (s.group g).count + 1 }
    lanes := v }

/-- The last arrival releases the group: at a boundary the released lanes take their turns there, in
ascending number, and between boundaries each is released for the next (R116, R117). -/
theorem arrive_releases {g : GroupId} {n : LaneId} {s : State} (v : PerLane Lane)
    (h : LaneSet.insert (s.group g).arrived n = (s.group g).members) (b : Bool) :
    let all := LaneSet.insert (s.group g).arrived n
    arrive g n b { s with lanes := v } =
      if b then (s.released g all v, (LaneId.all.filter fun m => LaneSet.has all m).map .released)
      else
        (s.released g all (PerLane.build fun m =>
          if LaneSet.has all m then (v.get m).releaseBetween else v.get m), []) := by
  intro all
  let x : Group := { s.group g with arrived := 0, count := (s.group g).count + 1 }
  let y : Group := { s.group g with arrived := all }
  have counted : (State.setGroup { s with lanes := v } g y).setGroup g x
      = { s with lanes := v, groups := s.groups.set g x } := by
    simp only [State.setGroup, PerGroup.set_set]
  have offered : offerInfo (.groupReleased g all ((s.group g).count + 1))
      ((State.setGroup { s with lanes := v } g y).setGroup g x) = s.released g all v := by
    rw [counted, offerInfo_with]
    rfl
  have arrived : (State.setGroup { s with lanes := v } g y).group g = y :=
    State.group_setGroup_self ..
  have last : completes { s with lanes := v } g n = true := (completes_iff ..).2 h
  unfold arrive
  rw [if_pos last]
  change releaseGroup g b (State.setGroup { s with lanes := v } g y) = _
  unfold releaseGroup
  rw [arrived]
  dsimp only
  change (if b = true then
      (offerInfo (.groupReleased g all ((s.group g).count + 1))
        ((State.setGroup { s with lanes := v } g y).setGroup g x), _) else _) = _
  rw [offered]
  cases b with
  | true => rfl
  | false => rfl

theorem memberFaulted_setLane {s : State} {g : GroupId} {n : LaneId} {l : Lane}
    (h : l.state ≠ .faulted) :
    memberFaulted (s.setLane n l) g = true ↔
      ∃ m, m ≠ n ∧ LaneSet.has (s.group g).members m = true ∧ (s.lane m).state = .faulted := by
  rw [memberFaulted_iff]
  simp only [State.group_setLane, State.lane_setLane]
  refine exists_congr fun m => ?_
  split
  · next hm => simp [hm, h]
  · next hm => simp [hm]

/-- A start met at once (R79, R80). -/
theorem startNow_armedOn (n : LaneId) (b : Bool) (s : State) (d : Descriptor)
    (rest : List Descriptor) :
    startNow n b (s.setLane n ((s.lane n).armedOn d rest)) =
      if b then (s.setLane n ((s.lane n).armedOn d rest), [.start n])
      else (s.setLane n ((s.lane n).armedOn d rest).meetStart, []) := by
  rw [startNow, State.lane_setLane_self, State.setLane_setLane]

/-! ### A start condition applied, case by case -/

theorem applyStart_ahead {n : LaneId} {x : Time} {s : State}
    (h : 1 ≤ (x - s.tb.time).toNat ∧ (x - s.tb.time).toNat < 2 ^ 31) (b : Bool) :
    applyStart n (.atTime x) b s = (s, []) := by
  simp only [applyStart, liesAhead, decide_eq_true h, if_true]

theorem applyStart_reached {n : LaneId} {x : Time} {s : State}
    (h : ¬(1 ≤ (x - s.tb.time).toNat ∧ (x - s.tb.time).toNat < 2 ^ 31)) (b : Bool) :
    applyStart n (.atTime x) b s = startNow n b s := by
  simp only [applyStart, liesAhead, decide_eq_false h]
  rfl

theorem applyStart_notMember {n : LaneId} {g : GroupId} {s : State}
    (h : LaneSet.has (s.group g).members n = false) (b : Bool) :
    applyStart n (.onGroup g) b s = (faultLane .notMember n s, []) := if_pos h

theorem applyStart_shut {n : LaneId} {g : GroupId} {s : State}
    (hm : LaneSet.has (s.group g).members n = true) (hf : memberFaulted s g = true) (b : Bool) :
    applyStart n (.onGroup g) b s = (faultLane .barrierBroken n s, []) :=
  (if_neg (by rw [hm]; exact nofun)).trans (if_pos hf)

theorem applyStart_arrives {n : LaneId} {g : GroupId} {s : State}
    (hm : LaneSet.has (s.group g).members n = true) (hf : ¬ memberFaulted s g = true) (b : Bool) :
    applyStart n (.onGroup g) b s = arrive g n b s :=
  (if_neg (by rw [hm]; exact nofun)).trans (if_neg hf)

/-- What a release between boundaries does to a lane of the release (R117). -/
theorem Lane.releaseBetween_eq (l : Lane) :
    l.releaseBetween =
      if l.state = .waiting then { l with waitSatisfied := true, sinceBoundary := l.ownDue }
      else if l.state = .armed then { l.meetStart with sinceBoundary := l.ownDue }
      else l := by
  unfold Lane.releaseBetween
  cases l.state <;> rfl

/-- An activation leaves what `State.Activates` says, start condition by start condition. -/
theorem activate_activates {n : LaneId} {s : State} {d : Descriptor} {rest : List Descriptor}
    (h : (s.lane n).queue.pending = d :: rest) (b : Bool) :
    s.Activates n d rest b (activate n b s).1 (activate n b s).2 := by
  let u : State := s.setLane n ((s.lane n).armedOn d rest)
  have activated : activate n b s = applyStart n d.start b u := by simp only [activate, h, u]
  have starts : if b = true then (startNow n b u).1 = u ∧ (startNow n b u).2 = [.start n]
      else (startNow n b u).1 = s.setLane n ((s.lane n).armedOn d rest).meetStart ∧
        (startNow n b u).2 = [] := by
    rw [startNow_armedOn]
    cases b <;> exact ⟨rfl, rfl⟩
  rw [activated]
  unfold State.Activates
  cases hs : d.start with
  | immediate => exact starts
  | onTrigger i => exact ⟨rfl, rfl⟩
  | atTime x =>
    dsimp only
    split
    · next ahead =>
      rw [applyStart_ahead (s := u) ahead]
      exact ⟨rfl, rfl⟩
    · next reached =>
      rw [applyStart_reached (s := u) reached]
      exact starts
  | onGroup g =>
    have shut := memberFaulted_setLane (s := s) (g := g) (n := n)
      (l := (s.lane n).armedOn d rest) nofun
    refine ⟨fun hm => ?_, fun hm hf => ?_, fun hm hf hall => ?_, fun hall hf => ?_⟩
    · rw [applyStart_notMember (s := u) hm]
      exact ⟨rfl, rfl⟩
    · rw [applyStart_shut (s := u) hm (shut.2 hf)]
      exact ⟨rfl, rfl⟩
    · rw [applyStart_arrives (s := u) hm fun hc => hf (shut.1 hc), arrive_held (s := u) hall]
      exact ⟨rfl, rfl⟩
    · have hm : LaneSet.has (s.group g).members n = true := hall ▸ LaneSet.has_insert_self ..
      rw [applyStart_arrives (s := u) hm fun hc => hf (shut.1 hc)]
      have released := arrive_releases (n := n) (s := s)
        (s.lanes.set n ((s.lane n).armedOn d rest)) hall b
      rw [show arrive g n b u = _ from released]
      cases b with
      | true => exact ⟨rfl, rfl⟩
      | false =>
        refine ⟨rfl, congrArg (State.released s g _) (congrArg PerLane.build (funext fun m => ?_))⟩
        by_cases hm : m = n
        · rw [hm, if_pos (LaneSet.has_insert_self ..), if_pos rfl, PerLane.get_set_self]
          rfl
        · rw [if_neg hm, PerLane.get_set_ne _ _ hm, Lane.releaseBetween_eq]
          by_cases ha : LaneSet.has (LaneSet.insert (s.group g).arrived n) m = true
          · simp only [ha, if_true, true_and]
            rfl
          · rw [if_neg ha, if_neg fun h => ha h.1, if_neg fun h => ha h.1]
            rfl

end Sys2Proof.Machine
end

/-! ## The end of a pass, and a WAIT on a group (R51, R56, R57, R64, R78, R85 to R89, R115) -/

section
namespace Sys2Proof.Machine

/-! ### Retirement -/

/-- The state in which the ACTIVE launch of lane n, the one given, has retired and its record has
been offered (R86, R87, R95). -/
def State.retiring (s : State) (n : LaneId) (a : Launch) (e : Ending) : State :=
  postTerminal n a.desc (.done n a.desc.tag (doneFields (s.lane n) a e))
    (s.setLane n ((s.lane n).retired a.desc.rest))

theorem State.retiring_pending (s : State) (n : LaneId) (a : Launch) (e : Ending) :
    ((s.retiring n a e).lane n).queue.pending = (s.lane n).queue.pending := by
  have alike := (postTerminal_alike n a.desc (.done n a.desc.tag (doneFields (s.lane n) a e))
    (s.setLane n ((s.lane n).retired a.desc.rest))).lane n
  rw [State.lane_setLane_self] at alike
  exact alike.pending

theorem retire_last {n : LaneId} {s : State} {a : Launch} (ha : (s.lane n).queue.active = some a)
    (hp : (s.lane n).queue.pending = []) (e : Ending) (b : Bool) :
    retire n e b s =
      ((s.retiring n a e).setLane n
        { (s.retiring n a e).lane n with state := .idle, remaining := 0 }, []) := by
  simp only [retire, ha, hp]
  rfl

theorem retire_next {n : LaneId} {s : State} {a : Launch} {d : Descriptor} {rest : List Descriptor}
    (ha : (s.lane n).queue.active = some a) (hp : (s.lane n).queue.pending = d :: rest)
    (e : Ending) (b : Bool) : retire n e b s = activate n b (s.retiring n a e) := by
  simp only [retire, ha, hp]
  rfl

/-! ### The end of a pass -/

theorem satSucc_passes (x : BitVec 16) : satSucc x = if x = 65535 then 65535 else x + 1 := by
  unfold satSucc
  by_cases h : x = 65535
  · subst h
    rfl
  · rw [if_neg h]
    exact if_neg h

/-- A launch has run its passes: its count has come to the descriptor's, which is not 0 (R85). -/
theorem passes_eq_iff (p : BitVec 16) (q : BitVec 8) : p = q.setWidth 16 ↔ p.toNat = q.toNat := by
  rw [← BitVec.toNat_inj, BitVec.toNat_setWidth, Nat.mod_eq_of_lt (by omega)]

theorem endPass_again {n : LaneId} {s : State} {x : Launch} {p : BitVec 16}
    (hx : (s.lane n).queue.active = some x) (hd : satSucc (s.lane n).passesDone = p)
    (last : ¬(x.desc.passes ≠ 0 ∧ p.toNat = x.desc.passes.toNat))
    (hs : (s.lane n).stopPending = false) :
    endPass n s = (s.setLane n { s.lane n with passesDone := p }, [.step n x.desc.entry]) := by
  simp only [endPass, hx, hd, passes_eq_iff]
  rw [if_neg last, if_neg (by rw [hs]; exact nofun)]

/-- The last pass retires the launch complete, else stop pending retires it STOPPED (R85, R89). -/
theorem endPass_retires {n : LaneId} {s : State} {x : Launch} {p : BitVec 16}
    (hx : (s.lane n).queue.active = some x) (hd : satSucc (s.lane n).passesDone = p)
    (ends : (x.desc.passes ≠ 0 ∧ p.toNat = x.desc.passes.toNat) ∨
      (s.lane n).stopPending = true) :
    endPass n s =
      retire n (if x.desc.passes ≠ 0 ∧ p.toNat = x.desc.passes.toNat then .complete else .stopped)
        true (s.setLane n { s.lane n with passesDone := p }) := by
  simp only [endPass, hx, hd, passes_eq_iff]
  split
  · rfl
  · next last => rw [if_pos (ends.resolve_left last)]

/-- Settles O45: END is executed behind its count, and the pass it counts is the last, is followed
by a stop, or is followed by the next. -/
theorem endOfAPass : Obligations.EndOfAPass := by
  refine ⟨fun n a s hp hz hs h => ?_, ?_⟩
  · rw [doWork_executeStep h hp hz nofun nofun]
    simp only [executeStep, State.lane_setLane_self]
    rw [if_neg (show ¬ ((s.lane n).counted a).stack = [] from hs)]
    rfl
  · intro n a s x hp hz hs hx h l passes last counted
    let u : State := s.setLane n (l.counted a)
    have ulane : u.lane n = l.counted a := State.lane_setLane_self ..
    have executed : doWork (.step n a) s = endPass n u := by
      rw [doWork_executeStep h hp hz nofun nofun]
      simp only [executeStep]
      rw [if_pos (by rw [State.lane_setLane_self]; exact hs)]
    have active : (u.lane n).queue.active = some x := by rw [ulane]; exact hx
    have done : satSucc (u.lane n).passesDone = passes := by
      rw [ulane]
      exact satSucc_passes _
    have set : u.setLane n { u.lane n with passesDone := passes } = s.setLane n counted := by
      rw [ulane, State.setLane_setLane]
      rfl
    refine ⟨fun again stop => ?_, ?_⟩
    · rw [executed, endPass_again active done again (by rw [ulane]; exact stop), set]
    · intro ends s1
      have retires := endPass_retires active done (by rw [ulane]; exact ends)
      rw [set] at retires
      have clane : (s.setLane n counted).lane n = counted := State.lane_setLane_self ..
      have retired : (s.setLane n counted).retiring n x
          (if x.desc.passes ≠ 0 ∧ passes.toNat = x.desc.passes.toNat then .complete else .stopped)
            = s1 := by
        unfold State.retiring
        rw [clane, State.setLane_setLane]
        refine congrArg₂ (fun f v => postTerminal n x.desc (.done n x.desc.tag f) (s.setLane n v))
          ?_ ?_
        · by_cases hl : last
          · rw [if_pos hl, decide_eq_true hl]
            rfl
          · rw [if_neg hl, decide_eq_false hl]
            rfl
        · have plain : counted = { counted with splicePending := false, stack := [] } := by
            rw [← hp, ← hs]
          rw [plain]
          unfold Lane.retired resolveRest
          rcases x.desc.rest with _ | _ | _ | _ <;> rcases l.level with _ | (_ | _ | _) <;> rfl
      have active : ((s.setLane n counted).lane n).queue.active = some x := by
        rw [clane]
        exact hx
      refine ⟨fun none => ?_, fun d rest next => ?_⟩
      · rw [executed, retires, retire_last active (by rw [clane]; exact none), retired]
      · have pending : (s1.lane n).queue.pending = d :: rest := by
          rw [← retired, State.retiring_pending, clane]
          exact next
        refine ⟨_, _, activate_activates pending true, ?_⟩
        rw [executed, retires, retire_next active (by rw [clane]; exact next), retired]

/-! ### A WAIT on a group -/

section
variable {n : LaneId} {g : GroupId} {a : Addr} {level : StepLevel} {strict : Bool} {t : BitVec 16}
  {s : State}

/-- Of the two checks of a WAIT on a group, membership comes first (R56). -/
theorem doWork_waitNotMember
    (h : decodeStep (s.fetchWord n a) = some (.wait (.group g) level strict t))
    (hp : (s.lane n).splicePending = false) (hm : ¬ LaneSet.has (s.group g).members n = true) :
    doWork (.step n a) s = (faultLane .notMember n (s.setLane n ((s.lane n).beginStep a)), []) := by
  simp only [doWork, takeStep, h]
  rw [if_neg (by rw [hp]; exact nofun), if_pos (Bool.eq_false_iff.2 hm)]

theorem doWork_waitShut
    (h : decodeStep (s.fetchWord n a) = some (.wait (.group g) level strict t))
    (hp : (s.lane n).splicePending = false) (hm : LaneSet.has (s.group g).members n = true)
    (hf : memberFaulted s g = true) :
    doWork (.step n a) s =
      (faultLane .barrierBroken n (s.setLane n ((s.lane n).beginStep a)), []) := by
  simp only [doWork, takeStep, h]
  rw [if_neg (by rw [hp]; exact nofun), if_neg (by rw [hm]; exact nofun), if_pos hf]

theorem doWork_waitGroup
    (h : decodeStep (s.fetchWord n a) = some (.wait (.group g) level strict t))
    (hp : (s.lane n).splicePending = false) (hm : LaneSet.has (s.group g).members n = true)
    (hf : ¬ memberFaulted s g = true) :
    doWork (.step n a) s =
      budgetStep n a (.wait (.group g) level strict t)
        (s.setLane n ((s.lane n).beginStep a)) := by
  simp only [doWork, takeStep, h]
  rw [if_neg (by rw [hp]; exact nofun), if_neg (by rw [hm]; exact nofun), if_neg hf]

end

theorem executeStep_waitHeld {n : LaneId} {g : GroupId} {s : State}
    (h : LaneSet.insert (s.group g).arrived n ≠ (s.group g).members) (a : Addr)
    (level : StepLevel) (strict : Bool) (t : BitVec 16) :
    executeStep n a (.wait (.group g) level strict t) s =
      ((s.setLane n { (s.lane n).beginWait (.group g) level strict t with zeroRun := 0 }).setGroup g
        { s.group g with arrived := LaneSet.insert (s.group g).arrived n }, []) :=
  (if_neg fun hc => h ((completes_iff ..).1 hc)).trans (arrive_held (s := s.setLane n _) h true)

theorem executeStep_waitLast {n : LaneId} {g : GroupId} {s : State}
    (h : LaneSet.insert (s.group g).arrived n = (s.group g).members) (a : Addr)
    (level : StepLevel) (strict : Bool) (t : BitVec 16) :
    executeStep n a (.wait (.group g) level strict t) s =
      arrive g n true (s.setLane n ((s.lane n).beginWait (.group g) level strict t)) :=
  if_pos ((completes_iff ..).2 h)

/-! ### The turn of a released lane -/

theorem stepReleased_waiting {n : LaneId} {s : State} (h : (s.lane n).state = .waiting) :
    stepReleased n s =
      (s.setLane n
        { (if (s.lane n).boundaryTaken then s.lane n else (s.lane n).noteTick s.tb.handedSet) with
          boundaryTaken := true, waitSource := none, waitSatisfied := false },
        [.step n ((s.lane n).stepAddr + 1)]) := by
  simp only [stepReleased, h]

theorem stepReleased_armed {n : LaneId} {s : State} (h : (s.lane n).state = .armed) :
    stepReleased n s = (s.setLane n { s.lane n with boundaryTaken := true }, [.start n]) := by
  simp only [stepReleased, h]

/-- The turn of a WAITING lane notes the tick, if its own event for the boundary has not (R57). -/
theorem noteTick_waiting {l : Lane} (h : l.state = .waiting) (s : State) :
    l.noteTick s.tb.handedSet = { l with holdoverSeen := l.seen s } := by
  unfold Lane.noteTick Lane.seen
  by_cases hk : s.tb.handedSet = .holdover
  · rw [if_pos ⟨.inr h, hk⟩, decide_eq_true hk, Bool.or_true]
  · rw [if_neg fun hc => hk hc.2, decide_eq_false hk, Bool.or_false]

/-- Settles O48: the checks in their order, then the budget, then the arrival; and the turns of
released lanes by their states. -/
theorem groupReleaseAtABoundary : Obligations.GroupReleaseAtABoundary := by
  refine ⟨?_, ?_⟩
  · intro n g a level strict t s h hp l fault member shut all waiting
    let u : State := s.setLane n (l.beginStep a)
    have ulane : u.lane n = l.beginStep a := State.lane_setLane_self ..
    have shut_iff : memberFaulted s g = true ↔ shut := memberFaulted_iff s g
    have last_iff : zeroDuration u n (.wait (.group g) level strict t) = true ↔
        all = (s.group g).members := completes_iff u g n
    have begun (hm : member) (hs : ¬ shut) := doWork_waitGroup h hp hm fun hf => hs (shut_iff.1 hf)
    refine ⟨doWork_waitNotMember h hp, fun hm hs => doWork_waitShut h hp hm (shut_iff.2 hs),
      fun hm hs hall hz => ?_, fun hm hs hall => ?_, fun hm hs hall hz => ?_⟩
    · rw [begun hm hs, budgetStep_spent (last_iff.2 hall) (by rw [ulane]; exact hz)]
      rfl
    · rw [begun hm hs, budgetStep_free fun hc => hall (last_iff.1 hc),
        executeStep_waitHeld (s := u) hall, ulane, State.setLane_setLane]
      rfl
    · rw [begun hm hs, budgetStep_counts (last_iff.2 hall) (by rw [ulane]; exact hz),
        executeStep_waitLast (s := u.setLane n _) hall, ulane, State.lane_setLane_self,
        State.setLane_setLane, show u = s.setLane n (l.beginStep a) from rfl, State.setLane_setLane]
      exact arrive_releases (s := s) (s.lanes.set n (waiting (l.zeroRun + 1))) hall true
  · intro n s l
    refine ⟨fun hs => ?_, stepReleased_armed⟩
    refine (stepReleased_waiting hs).trans ?_
    rw [noteTick_waiting hs]
    dsimp only [l]
    cases (s.lane n).boundaryTaken <;> rfl

end Sys2Proof.Machine
end

/-! ## A lane's own event that begins a step (R46 to R50, R52, R55, R66, R67, R83, R120) -/

section
namespace Sys2Proof.Machine

/-! ### The run of an event (R50, R152) -/

/-- A run that leaves no work leaves none with more budget. -/
theorem runWork_mono {k j : Nat} (hkj : k ≤ j) {ws : List Work} {s t : State}
    (h : runWork k ws s = (t, [])) : runWork j ws s = (t, []) := by
  induction k generalizing j ws s with
  | zero =>
    cases ws with
    | nil => rwa [runWork_nil] at h ⊢
    | cons w ws => cases h
  | succ k ih =>
    cases ws with
    | nil => rwa [runWork_nil] at h ⊢
    | cons w ws =>
      obtain ⟨i, rfl⟩ : ∃ i, j = i + 1 := ⟨j - 1, by omega⟩
      rw [runWork_cons] at h ⊢
      exact ih (by omega) h

theorem three_le_stepBudget : 3 ≤ stepBudget := by
  unfold stepBudget
  exact le_trans (by norm_num : 3 ≤ 2 ^ 250) (Nat.le_self_pow (by norm_num) _)

/-- An event whose run leaves no work answers the settled state. -/
theorem laneEvent_runs {n : LaneId} {s u t : State} {ws : List Work} {k : Nat}
    (h : ownActions n s = (u, ws)) (hk : k ≤ stepBudget) (ran : runWork k ws u = (t, [])) :
    laneEvent n s = .next (settle s t) := by
  simp only [laneEvent, outcomeOf, h, runWork_mono hk ran, if_true]

/-! ### The named events are the lane's own (log 12) -/

theorem exec_holdEnd {n : LaneId} {s : State} (hr : s.port.rstnLow = false)
    (due : (s.lane n).holdEnds = true) : exec (.holdEnd n) s = laneEvent n s :=
  if_neg (by simp [hr, due])

theorem exec_timeoutExpiry {n : LaneId} {s : State} (hr : s.port.rstnLow = false)
    (due : (s.lane n).waitExpires = true) : exec (.timeoutExpiry n) s = laneEvent n s :=
  if_neg (by simp [hr, due])

theorem exec_waitSatisfied {n : LaneId} {s : State} (hr : s.port.rstnLow = false)
    (due : (s.lane n).waitEnds = true) : exec (.waitSatisfied n) s = laneEvent n s :=
  if_neg (by simp [hr, due])

theorem exec_launchStart {n : LaneId} {s : State} (hr : s.port.rstnLow = false)
    (due : (s.lane n).starts s.tb.time = true) : exec (.launchStart n) s = laneEvent n s :=
  if_neg (by simp [hr, due])

theorem exec_spliceLanding {n : LaneId} {s : State} (hr : s.port.rstnLow = false)
    (due : (s.lane n).spliceLands = true) : exec (.spliceLanding n) s = laneEvent n s :=
  if_neg (by simp [hr, due])

section
variable {n : LaneId} {s : State}

theorem State.takesLaneEvent.powered (h : s.takesLaneEvent n) : s.port.rstnLow = false := h.1

theorem State.takesLaneEvent.fresh (h : s.takesLaneEvent n) : (s.lane n).boundaryTaken = false :=
  h.2.1

theorem State.takesLaneEvent.actsNext (h : s.takesLaneEvent n) : (s.lane n).actsNext = false :=
  Bool.eq_false_iff.2 fun hc => h.2.2 (Lane.actsNext_iff.1 hc)

/-- A lane in ARMED or WAITING that acts at the boundary it takes has been reached by no activation
and no release behind it (log 16). -/
theorem State.takesLaneEvent.sinceBoundary (h : s.takesLaneEvent n)
    (hs : (s.lane n).state = .armed ∨ (s.lane n).state = .waiting) :
    (s.lane n).sinceBoundary = false := Bool.eq_false_iff.2 fun hc => h.2.2 ⟨hc, hs⟩

/-! ### What a lane does first, by its state (R47, R48, R55, R83) -/

/-- A lane that takes its own event in RUNNING or WAITING: the flags, and the note (R46). -/
def Lane.taking (l : Lane) (s : State) : Lane :=
  { l with
    boundaryTaken := true, ownDue := false, sinceBoundary := false, holdoverSeen := l.seen s }

theorem ownActions_holdEnds (h : s.takesLaneEvent n) (hs : (s.lane n).state = .running)
    (hrem : (s.lane n).remaining = 1) :
    ownActions n s =
      (s.setLane n { (s.lane n).taking s with remaining := 0 },
        [.step n ((s.lane n).stepAddr + 1)]) := by
  rw [ownActions_running h.fresh hs]
  simp only [runningBoundary, State.lane_setLane_self, State.setLane_setLane, hrem, if_true]
  rfl

theorem ownActions_waitEnds (h : s.takesLaneEvent n) (hp : (s.lane n).splicePending = false)
    (hs : (s.lane n).state = .waiting) (hw : (s.lane n).waitSatisfied = true) :
    ownActions n s =
      (s.setLane n { (s.lane n).taking s with waitSatisfied := false, waitSource := none },
        [.step n ((s.lane n).stepAddr + 1)]) := by
  rw [ownActions_waiting h.fresh (h.sinceBoundary (.inr hs)) hs]
  simp only [waitingBoundary, State.lane_setLane_self, State.setLane_setLane]
  rw [if_neg (by rw [hp]; exact nofun), if_pos hw]
  rfl

/-- A lane whose WAIT has run its timeout out (R55). -/
def Lane.expiring (l : Lane) (s : State) : Lane :=
  { l.taking s with remaining := 0, waitSatisfied := false, waitSource := none }

/-- The state behind the expiry of a WAIT: the wait has ended, the lane has departed (R55, R120). -/
def State.expired (s : State) (n : LaneId) : State :=
  { s.setLane n ((s.lane n).expiring s) with groups := s.groupsWithout n }

theorem ownActions_expires (h : s.takesLaneEvent n) (hp : (s.lane n).splicePending = false)
    (hs : (s.lane n).state = .waiting) (hw : (s.lane n).waitSatisfied = false)
    (hrem : (s.lane n).remaining = 1) :
    ownActions n s =
      if (s.lane n).waitStrict then (faultLane .waitTimeout n (s.expired n), [])
      else
        match (s.lane n).waitSource with
        | some src =>
          (offerInfo (.waitTimeout n (s.lane n).activeTag (s.lane n).stepAddr src) (s.expired n),
            [.step n ((s.lane n).stepAddr + 1)])
        | none => (s.expired n, [.step n ((s.lane n).stepAddr + 1)]) := by
  rw [ownActions_waiting h.fresh (h.sinceBoundary (.inr hs)) hs]
  simp only [waitingBoundary, State.lane_setLane_self, State.setLane_setLane, expireWait]
  rw [if_neg (by rw [hp]; exact nofun), if_neg (by rw [hw]; exact nofun),
    if_neg (by rw [hrem]; decide), if_pos hrem]
  rfl

theorem ownActions_starts (h : s.takesLaneEvent n) (hp : (s.lane n).splicePending = false)
    (hs : (s.lane n).state = .armed) (due : (s.lane n).startDue s.tb.time = true) :
    ownActions n s =
      (s.setLane n
        { s.lane n with boundaryTaken := true, ownDue := false, sinceBoundary := false },
        [.start n]) := by
  rw [ownActions_armed h.fresh (h.sinceBoundary (.inl hs)) hs]
  simp only [armedBoundary, State.lane_setLane_self]
  rw [if_neg (by rw [hp]; exact nofun)]
  exact if_pos due

theorem offerInfo_setLane_groups (b : EventBody) (s : State) (n : LaneId) (l : Lane)
    (gs : PerGroup Group) :
    offerInfo b { s.setLane n l with groups := gs } =
      { (offerInfo b s).setLane n l with groups := gs } := by
  rcases offerInfo_cases b s with ⟨room, h⟩ | ⟨full, h⟩ <;> rw [h]
  · exact if_pos room
  · exact if_neg (Bool.eq_false_iff.1 full)

/-- Without strict the expiry is recorded, and the next step begins (R55). -/
theorem ownActions_lenient {src : WaitSource} {a : Launch} (h : s.takesLaneEvent n)
    (hp : (s.lane n).splicePending = false) (hs : (s.lane n).state = .waiting)
    (hw : (s.lane n).waitSatisfied = false) (hrem : (s.lane n).remaining = 1)
    (hc : (s.lane n).waitStrict = false) (hsrc : (s.lane n).waitSource = some src)
    (ha : (s.lane n).queue.active = some a) :
    ownActions n s =
      ({ (offerInfo (.waitTimeout n a.desc.tag (s.lane n).stepAddr src) s).setLane n
          ((s.lane n).expiring s) with
        groups := s.groupsWithout n }, [.step n ((s.lane n).stepAddr + 1)]) := by
  have tag : (s.lane n).activeTag = a.desc.tag := by simp only [Lane.activeTag, ha]
  rw [ownActions_expires h hp hs hw hrem, if_neg (by rw [hc]; exact nofun), hsrc, tag]
  exact congrArg (·, _) (offerInfo_setLane_groups ..)

/-! ### What is due (R46 to R48) -/

theorem State.takesLaneEvent.holdEnds (h : s.takesLaneEvent n) (hs : (s.lane n).state = .running)
    (hrem : (s.lane n).remaining = 1) : (s.lane n).holdEnds = true := by
  simp [Lane.holdEnds, h.fresh, hs, hrem]

theorem State.takesLaneEvent.waitEnds (h : s.takesLaneEvent n)
    (hp : (s.lane n).splicePending = false) (hs : (s.lane n).state = .waiting)
    (hw : (s.lane n).waitSatisfied = true) : (s.lane n).waitEnds = true := by
  simp [Lane.waitEnds, h.fresh, h.actsNext, hp, hs, hw]

theorem State.takesLaneEvent.waitExpires (h : s.takesLaneEvent n)
    (hp : (s.lane n).splicePending = false) (hs : (s.lane n).state = .waiting)
    (hw : (s.lane n).waitSatisfied = false) (hrem : (s.lane n).remaining = 1) :
    (s.lane n).waitExpires = true := by
  simp [Lane.waitExpires, h.fresh, h.actsNext, hp, hs, hw, hrem]

theorem State.takesLaneEvent.starts (h : s.takesLaneEvent n)
    (hp : (s.lane n).splicePending = false) (hs : (s.lane n).state = .armed)
    (due : (s.lane n).startDue s.tb.time = true) : (s.lane n).starts s.tb.time = true := by
  simp [Lane.starts, h.fresh, h.actsNext, hp, hs, due]

end

/-- A start is due where it is met, and at its time (R83). -/
theorem Lane.startDue_of {l : Lane} {a : Launch} {now : Time} (ha : l.queue.active = some a)
    (h : a.startMet = true ∨ a.desc.start = .atTime now) : l.startDue now = true := by
  unfold Lane.startDue
  rw [ha]
  rcases h with h | h
  · simp only [h, Bool.true_or]
  · simp only [h, decide_true, Bool.or_true]

/-- What the offer of an informational record leaves as it was (R149, R150). -/
theorem offerInfo_frame (b : EventBody) (s : State) :
    (offerInfo b s).evq.deferral = s.evq.deferral ∧ (offerInfo b s).carriers = s.carriers ∧
      (offerInfo b s).pmem = s.pmem := by
  unfold offerInfo
  split <;> exact ⟨rfl, rfl, rfl⟩

/-! ### An event that begins a HOLD -/

/-- A lane that begins a HOLD at address a (R52). -/
def Lane.runsHold (l : Lane) (a : Addr) (level : StepLevel) (d : BitVec 20) : Lane :=
  { l with
    state := .running, stepAddr := a, level := some level, remaining := d, zeroRun := 0
    sight := some (l.sight.getD []) }

/-- A lane event that touches its own lane, the event queue and the groups alone, and then begins a
HOLD. -/
theorem laneEvent_holdBehind {n : LaneId} {s u : State} {x : Lane} {a : Addr} {level : StepLevel}
    {d : BitVec 20} (h : ownActions n s = (u.setLane n x, [.step n a]))
    (lanes : u.lanes = s.lanes) (deferral : u.evq.deferral = s.evq.deferral)
    (pmem : u.pmem = s.pmem) (sight : x.sight = (s.lane n).sight) (hp : x.splicePending = false)
    (hd : decodeStep (s.fetchWord n a) = some (.hold level d)) :
    laneEvent n s =
      .next (u.setLane n (judgeSegment u.carriers (s.lane n) (x.runsHold a level d))) := by
  have fetched : (u.setLane n x).fetchWord n a = s.fetchWord n a := by
    unfold State.fetchWord
    rw [State.lane_setLane_self, sight, show (u.setLane n x).pmem = s.pmem from pmem]
  rw [laneEvent_hold h (by rw [fetched]; exact hd) (by rwa [State.lane_setLane_self]),
    State.lane_setLane_self, State.setLane_setLane, settle_setLane (.inl lanes) (.inl deferral)]
  rfl

/-- Settles O39: the event's own actions leave the step at the next address, whose run is the HOLD,
or any run the model's work loop makes. -/
theorem boundaryStepsToNextHold : Obligations.BoundaryStepsToNextHold := by
  refine ⟨fun n s level d h hp hd => ?_, fun k w ws s => ⟨runWork_nil .., runWork_cons ..⟩,
    fun n s k t h hp hk => ?_⟩
  · intro l out
    refine ⟨fun hs hrem => ?_, fun hs hw => ?_⟩
    · rw [exec_laneBoundary h.powered, exec_holdEnd h.powered (h.holdEnds hs hrem),
        laneEvent_holdBehind (ownActions_holdEnds h hs hrem) rfl rfl rfl rfl hp hd]
      exact ⟨rfl, rfl⟩
    · rw [exec_laneBoundary h.powered, exec_waitSatisfied h.powered (h.waitEnds hp hs hw),
        laneEvent_holdBehind (ownActions_waitEnds h hp hs hw) rfl rfl rfl rfl hp hd]
      exact ⟨rfl, rfl⟩
  · intro l taken ran
    refine ⟨fun hs hrem run => ?_, fun hs hw run => ?_, fun src a hs hw hrem hc hsrc ha run => ?_,
      fun a hs ha due run => ?_⟩
    · rw [exec_holdEnd h.powered (h.holdEnds hs hrem)]
      exact laneEvent_runs (ownActions_holdEnds h hs hrem) hk run
    · rw [exec_waitSatisfied h.powered (h.waitEnds hp hs hw)]
      exact laneEvent_runs (ownActions_waitEnds h hp hs hw) hk run
    · rw [exec_timeoutExpiry h.powered (h.waitExpires hp hs hw hrem)]
      exact laneEvent_runs (ownActions_lenient h hp hs hw hrem hc hsrc ha) hk run
    · have due := Lane.startDue_of ha due
      rw [exec_launchStart h.powered (h.starts hp hs due)]
      exact laneEvent_runs (ownActions_starts h hp hs due) hk run

/-! ### The expiry of a WAIT (R55, R66, R120) -/

theorem LaneSet.erase_empty (n : LaneId) : LaneSet.erase 0 n = 0 := by
  cases n <;> rfl

/-- A lane no other is held beside is so, and leaves the same groups, once it has departed. -/
theorem State.heldAlone.expired {n : LaneId} {s : State} (h : s.heldAlone n) :
    (s.expired n).heldAlone n ∧ (s.expired n).groupsWithout n = s.groupsWithout n := by
  have without (g : GroupId) :
      (s.expired n).group g = { s.group g with arrived := LaneSet.erase (s.group g).arrived n } :=
    PerGroup.get_build _ g
  refine ⟨fun g => ?_, congrArg PerGroup.build (funext fun g => ?_)⟩
  · rw [without, h g, LaneSet.erase_empty]
  · rw [without, h g, LaneSet.erase_empty]

/-- An event that ends with a terminal record of its lane, the gate closed, settles as it stands. -/
theorem settle_postTerminal {n : LaneId} {s : State} {x : Lane} (called : x.called = none)
    (gate : x.gate = .closed) (d : Descriptor) (b : EventBody) (gs : PerGroup Group) :
    settle s { postTerminal n d b (s.setLane n x) with groups := gs } =
      { postTerminal n d b (s.setLane n x) with groups := gs } := by
  obtain ⟨added, deferral, sorted⟩ : ∃ added,
      (postTerminal n d b (s.setLane n x)).evq.deferral = s.evq.deferral ++ added ∧
        DeferralEntry.Sorted added := by
    rcases postTerminal_cases n d b (s.setLane n x) with ⟨-, h⟩ | ⟨-, h⟩ <;> rw [h]
    · exact ⟨[], (List.append_nil _).symm, List.Pairwise.nil⟩
    · exact ⟨[.lane n], rfl, List.pairwise_singleton ..⟩
  refine settle_eq_self (fun m => ?_) deferral sorted
  obtain ⟨q, hq⟩ := postTerminal_lane n d b (s.setLane n x) m
  refine (congrArg (judgeSegment _ (s.lane m)) hq).trans (Eq.trans ?_ hq.symm)
  rw [State.lane_setLane]
  split
  · exact judgeSegment_closed called gate
  · exact judgeSegment_same rfl

/-- Settles O40: by the strict flag the expiry is recorded and the next step begins, or the lane
faults; and a lane held alone breaks no barrier. -/
theorem timeoutExpiryOfAWait : Obligations.TimeoutExpiryOfAWait := by
  have strict {n : LaneId} {s : State} (h : s.takesLaneEvent n)
      (hp : (s.lane n).splicePending = false) (hw : (s.lane n).waitSatisfied = false)
      (hs : (s.lane n).state = .waiting) (hrem : (s.lane n).remaining = 1)
      (hc : (s.lane n).waitStrict = true) :
      exec (.timeoutExpiry n) s =
          .next (settle s (faultLane .waitTimeout n (s.expired n))) ∧
        exec (.laneBoundary n) s = exec (.timeoutExpiry n) s := by
    have acts := ownActions_expires h hp hs hw hrem
    rw [if_pos hc] at acts
    rw [exec_laneBoundary h.powered, exec_timeoutExpiry h.powered (h.waitExpires hp hs hw hrem),
      laneEvent_idle acts]
    exact ⟨rfl, rfl⟩
  refine ⟨fun n s src level d a h hp hw hs hrem hc hsrc ha hd => ?_,
    fun n s a h hp hw hs hrem hc ha alone => ?_, fun n s => strict⟩
  · intro l
    let u : State :=
      { offerInfo (.waitTimeout n a.desc.tag l.stepAddr src) s with groups := s.groupsWithout n }
    obtain ⟨deferral, carriers, pmem⟩ :=
      offerInfo_frame (.waitTimeout n a.desc.tag l.stepAddr src) s
    have event := laneEvent_holdBehind (u := u) (ownActions_lenient h hp hs hw hrem hc hsrc ha)
      (offerInfo_lanes ..) deferral pmem rfl hp hd
    rw [show u.carriers = s.carriers from carriers] at event
    rw [exec_laneBoundary h.powered, exec_timeoutExpiry h.powered (h.waitExpires hp hs hw hrem),
      event]
    exact ⟨rfl, rfl⟩
  · intro l
    obtain ⟨alone, groups⟩ := alone.expired
    have active : ((s.expired n).lane n).queue.active = some a := by
      rw [show (s.expired n).lane n = _ from State.lane_setLane_self ..]
      exact ha
    refine ⟨?_, (strict h hp hw hs hrem hc).2⟩
    have fault : faultLane .waitTimeout n (s.expired n) =
        { postTerminal n a.desc
            (.aborted n a.desc.tag l.passesDone (.fault .waitTimeout) l.stepAddr)
            (s.setLane n ((l.expiring s).faulted .waitTimeout)) with
          groups := s.groupsWithout n } := by
      have lane : (s.expired n).lane n = l.expiring s := State.lane_setLane_self ..
      have set : (s.expired n).setLane n ((l.expiring s).faulted .waitTimeout) =
          { s.setLane n ((l.expiring s).faulted .waitTimeout) with groups := s.groupsWithout n } :=
        congrArg (fun v : State => { v with groups := s.groupsWithout n })
          (State.setLane_setLane ..)
      rw [faultLane_alone active alone, groups, lane, set, postTerminal_groups]
      rfl
    rw [(strict h hp hw hs hrem hc).1, fault, settle_postTerminal rfl rfl]
    rfl

end Sys2Proof.Machine
end

/-! ## Launches that begin at a boundary: the start, and the splice (R83, R84, R87, R91, R95) -/

section
namespace Sys2Proof.Machine

/-- The lateness of a start, saturated (R84). -/
theorem latenessAt_eq (start now : Time) :
    latenessAt start now = BitVec.ofNat 16 (min (now - start).toNat 65535) := by
  unfold latenessAt
  split
  · next h => rw [Nat.min_eq_right (by omega)]; rfl
  · next h => rw [Nat.min_eq_left (by omega)]

/-- A started launch carries its lateness, an AT_TIME launch the one of its start (R84). -/
theorem Launch.started_eq (a : Launch) (now : Time) :
    a.started now =
      ⟨a.desc, false, BitVec.ofNat 16 (match a.desc.start with
        | .atTime t => min (now - t).toNat 65535
        | .immediate | .onGroup _ | .onTrigger _ => a.lateness.toNat)⟩ := by
  unfold Launch.started
  cases a.desc.start with
  | atTime t =>
    dsimp only
    rw [latenessAt_eq]
  | immediate | onGroup g | onTrigger i =>
    dsimp only
    rw [BitVec.ofNat_toNat, BitVec.setWidth_eq]

/-- Settles O41: the due start is the lane's work, and its step is the entry's HOLD. -/
theorem launchStartRunsTheEntry : Obligations.LaunchStartRunsTheEntry := by
  intro n s a level d h hp hs ha due hd l late
  have due := Lane.startDue_of ha due
  have acts := ownActions_starts h hp hs due
  let x : Lane := { l with boundaryTaken := true, ownDue := false, sinceBoundary := false }
  have lane : (s.setLane n x).lane n = x := State.lane_setLane_self ..
  have event := laneEvent_start acts (x := a) (by rw [lane]; exact ha)
    (by rw [State.fetchWord_setLane_sight (x := x) _ rfl]; exact hd) (by rw [lane]; exact hp)
  rw [lane, Launch.started_eq, State.setLane_setLane,
    settle_setLane (u := s) (.inl rfl) (.inl rfl)] at event
  rw [exec_laneBoundary h.powered, exec_launchStart h.powered (h.starts hp hs due), event]
  exact ⟨rfl, rfl⟩

/-! ### The retirement behind a splice -/

/-- What a lane fetches follows from the step memory and its sight. -/
theorem State.fetchWord_congr {s t : State} {n : LaneId} (pmem : t.pmem = s.pmem)
    (sight : (t.lane n).sight = (s.lane n).sight) (c : Addr) :
    t.fetchWord n c = s.fetchWord n c := by
  unfold State.fetchWord
  rw [pmem, sight]

/-- Of a lane just written, the offer of its terminal record reads and writes the launch queue
alone. -/
theorem postTerminal_setLane (n : LaneId) (d : Descriptor) (b : EventBody) (s : State)
    (q : LaunchQueue) :
    ∃ (u : State) (q' : LaunchQueue), (∀ x : Lane, x.queue = q →
        postTerminal n d b (s.setLane n x) = u.setLane n { x with queue := q' }) ∧
      u.lanes = s.lanes ∧ u.carriers = s.carriers ∧ u.pmem = s.pmem ∧
      (u.evq.deferral = s.evq.deferral ∨ ∃ e, u.evq.deferral = s.evq.deferral ++ [e]) := by
  by_cases room : s.evq.canPlace = true
  · refine ⟨{ s with evq := s.evq.place ⟨s.tb.time, 0, b⟩ }, q, fun x hx => ?_, rfl, rfl, rfl,
      .inl rfl⟩
    rw [show ({ x with queue := q } : Lane) = x by rw [← hx]]
    exact if_pos room
  · refine ⟨{ s with evq := { s.evq with deferral := s.evq.deferral ++ [.lane n] } },
      { q with awaiting := q.awaiting ++ [⟨d, ⟨s.tb.time, 0, b⟩⟩] }, fun x hx => ?_, rfl, rfl, rfl,
      .inr ⟨_, rfl⟩⟩
    refine (if_neg room).trans ?_
    rw [State.lane_setLane_self]
    dsimp only
    rw [State.setLane_setLane, hx]
    rfl

theorem activate_immediate {n : LaneId} {s : State} {d : Descriptor} {rest : List Descriptor}
    (h : (s.lane n).queue.pending = d :: rest) (hs : d.start = .immediate) :
    activate n true s = (s.setLane n ((s.lane n).armedOn d rest), [.start n]) := by
  simp only [activate, h, hs]
  rfl

/-- The run of a start whose entry holds a HOLD. -/
theorem runWork_startHold {n : LaneId} {s : State} {x : Launch} {level : StepLevel} {d : BitVec 20}
    (hx : (s.lane n).queue.active = some x)
    (hd : decodeStep (s.fetchWord n x.desc.entry) = some (.hold level d))
    (hp : (s.lane n).splicePending = false) :
    runWork 2 [.start n] s =
      (s.setLane n
        (((s.lane n).launched (x.started s.tb.time)).runsHold x.desc.entry level d), []) := by
  let u : State := s.setLane n ((s.lane n).launched (x.started s.tb.time))
  have lane : u.lane n = (s.lane n).launched (x.started s.tb.time) := State.lane_setLane_self ..
  have start : doWork (.start n) s = (u, [.step n x.desc.entry]) := by
    simp only [doWork, startLaunch, hx]
    rfl
  have fetched : u.fetchWord n x.desc.entry = s.fetchWord n x.desc.entry :=
    State.fetchWord_congr (s := s) (t := u) rfl (by rw [lane]; rfl) _
  have hold := doWork_hold (n := n) (s := u) (by rw [fetched]; exact hd) (by rw [lane]; exact hp)
  rw [runWork_cons, start, List.append_nil, runWork_cons, hold, List.append_nil, runWork_nil, lane,
    State.setLane_setLane]
  rfl

/-- A lane at its splice landing: what its event has noted and begun by then. -/
def Lane.landing (l : Lane) (seen : Bool) (left : BitVec 20) (addr : Addr)
    (sight : Option (List (Addr × Word))) : Lane :=
  { l with
    boundaryTaken := true, ownDue := false, sinceBoundary := false, holdoverSeen := seen
    remaining := left, stepAddr := addr, sight := sight }

/-- The lane a splice retires the ACTIVE launch of, before its record is offered (R86, R88, R91). -/
def Lane.landedOut (l : Lane) (seen : Bool) (rest : RestLevel) : Lane :=
  { l with
    splicePending := false, stopPending := false, waitSatisfied := false, waitSource := none
    stack := [], boundaryTaken := true, ownDue := false, sinceBoundary := false
    holdoverSeen := seen, rest := resolveRest rest l.level
    queue := { l.queue with active := none } }

/-- The state in which a splice has retired the launch given (R87, R95). -/
def State.landedOut (s : State) (n : LaneId) (a : Launch) (seen : Bool) (gs : PerGroup Group) :
    State :=
  postTerminal n a.desc
    (.done n a.desc.tag
      ⟨(s.lane n).passesDone, false, true, seen && decide ((s.lane n).state ≠ .armed), a.lateness⟩)
    { s.setLane n ((s.lane n).landedOut seen a.desc.rest) with groups := gs }

/-- A lane that runs the entry's HOLD of the IMMEDIATE launch behind a splice (R91). -/
def Lane.landedIn (l : Lane) (b : Descriptor) (rest : List Descriptor) (level : StepLevel)
    (d : BitVec 20) (kept : List (Addr × Word)) : Lane :=
  { l with
    state := .running, stepAddr := b.entry, level := some level, remaining := d
    sight := some kept, passesDone := 0, zeroRun := 0, holdoverSeen := false
    queue := { l.queue with active := some ⟨b, false, 0⟩, pending := rest } }

/-- The retirement at a splice landing, the activation behind it and the entry's HOLD, settled. -/
theorem landing_runs {n : LaneId} {s : State} {a : Launch} {b : Descriptor} {rest : List Descriptor}
    {level : StepLevel} {d : BitVec 20} (ha : (s.lane n).queue.active = some a)
    (hb : (s.lane n).queue.pending = b :: rest) (hs : b.start = .immediate)
    (hd : decodeStep (s.fetchWord n b.entry) = some (.hold level d))
    {sight : Option (List (Addr × Word))}
    (begun : sight = (s.lane n).sight ∨ sight = some ((s.lane n).sight.getD []))
    (seen : Bool) (left : BitVec 20) (addr : Addr) (gs : PerGroup Group) :
    ∃ u ws t,
      retire n .spliced true
        { s.setLane n ((s.lane n).landing seen left addr sight) with groups := gs } = (u, ws) ∧
      runWork 2 ws u = (t, []) ∧
      settle s t =
        (s.landedOut n a seen gs).setLane n
          (judgeSegment s.carriers (s.lane n)
            (((s.landedOut n a seen gs).lane n).landedIn b rest level d
              ((s.lane n).sight.getD []))) := by
  let y := (s.lane n).landing seen left addr sight
  let w : State := { s.setLane n y with groups := gs }
  have wlane : w.lane n = y := State.lane_setLane_self ..
  obtain ⟨u, q, offered, lanes, carriers, pmem, deferral⟩ :=
    postTerminal_setLane n a.desc
      (.done n a.desc.tag
        ⟨(s.lane n).passesDone, false, true, seen && decide ((s.lane n).state ≠ .armed),
          a.lateness⟩)
      { s with groups := gs } { (s.lane n).queue with active := none }
  have out : s.landedOut n a seen gs =
      u.setLane n { (s.lane n).landedOut seen a.desc.rest with queue := q } := offered _ rfl
  have retiring : w.retiring n a .spliced =
      u.setLane n { y.retired a.desc.rest with queue := q } := by
    refine Eq.trans ?_ (offered (y.retired a.desc.rest) rfl)
    unfold State.retiring
    rw [wlane]
    exact congrArg (fun v : State => postTerminal n a.desc _ { v with groups := gs })
      (State.setLane_setLane ..)
  have pending : ((w.retiring n a .spliced).lane n).queue.pending = b :: rest := by
    rw [State.retiring_pending, wlane]
    exact hb
  let x : Lane := ({ y.retired a.desc.rest with queue := q } : Lane).armedOn b rest
  have retired : retire n .spliced true w = (u.setLane n x, [.start n]) := by
    rw [retire_next (by rw [wlane]; exact ha) (by rw [wlane]; exact hb),
      activate_immediate pending hs, retiring, State.lane_setLane_self, State.setLane_setLane]
  have xlane : (u.setLane n x).lane n = x := State.lane_setLane_self ..
  have fetched : decodeStep ((u.setLane n x).fetchWord n b.entry) = some (.hold level d) := by
    rw [← hd]
    rcases begun with h | h
    · exact congrArg decodeStep
        (State.fetchWord_congr (s := s) (t := u.setLane n x) pmem (by rw [xlane]; exact h) _)
    · rw [← s.fetchWord_beginStep n b.entry b.entry]
      refine congrArg decodeStep
        (State.fetchWord_congr (s := s.setLane n _) (t := u.setLane n x) pmem ?_ _)
      rw [State.lane_setLane_self, State.lane_setLane_self]
      exact h
  have getD : sight.getD [] = (s.lane n).sight.getD [] := by
    rcases begun with h | h <;> rw [h]
    rfl
  have ran := runWork_startHold (x := ⟨b, false, 0⟩) (by rw [xlane]; rfl) fetched
    (by rw [xlane]; rfl)
  rw [xlane, State.setLane_setLane, Launch.started] at ran
  simp only [hs] at ran
  refine ⟨_, _, _, retired, ran, ?_⟩
  rw [settle_setLane (s := s) (.inl lanes) deferral, out, State.lane_setLane_self,
    State.setLane_setLane, carriers]
  unfold Lane.landedIn
  rw [← getD]
  rfl

/-! ### The splice landing, by the lane's state (R48, R91) -/

section
variable {n : LaneId} {s : State}

theorem State.takesLaneEvent.spliceLands (h : s.takesLaneEvent n)
    (hp : (s.lane n).splicePending = true)
    (hs : (s.lane n).state = .armed ∨ (s.lane n).state = .waiting ∨
      ((s.lane n).state = .running ∧ (s.lane n).remaining = 1)) :
    (s.lane n).spliceLands = true := by
  simp only [Lane.spliceLands, h.fresh, h.actsNext, hp, decide_eq_true hs]
  rfl

/-- What the boundary of a splice landing has noted: nothing in ARMED (R46). -/
def Lane.seenAtLanding (l : Lane) (s : State) : Bool :=
  if l.state = .armed then l.holdoverSeen else l.seen s

theorem ownActions_lands (h : s.takesLaneEvent n) (hp : (s.lane n).splicePending = true)
    (hs : (s.lane n).state = .waiting ∨ (s.lane n).state = .armed) :
    ownActions n s =
      retire n .spliced true
        { s.setLane n ((s.lane n).landing ((s.lane n).seenAtLanding s) (s.lane n).remaining
            (s.lane n).stepAddr (s.lane n).sight) with
          groups := s.groupsWithout n } := by
  unfold Lane.seenAtLanding
  rcases hs with hs | hs
  · rw [ownActions_waiting h.fresh (h.sinceBoundary (.inr hs)) hs,
      if_neg (by rw [hs]; exact nofun)]
    simp only [waitingBoundary, State.lane_setLane_self]
    exact if_pos hp
  · rw [ownActions_armed h.fresh (h.sinceBoundary (.inl hs)) hs, if_pos hs]
    simp only [armedBoundary, State.lane_setLane_self]
    exact if_pos hp

/-- At a HOLD's end the splice takes the place of the next step, behind its record's check (R18). -/
theorem doWork_lands {u : State} {a : Addr} (hp : (u.lane n).splicePending = true)
    (legal : decodeStep (u.fetchWord n a) ≠ none) :
    doWork (.step n a) u = retire n .spliced true (u.setLane n ((u.lane n).beginStep a)) := by
  obtain ⟨r, hr⟩ := Option.ne_none_iff_exists'.1 legal
  simp only [doWork, takeStep, hr]
  exact if_pos hp

end

/-- Settles O42: in each state the event comes to the same retirement, the lane noted and begun as
the state has it. -/
theorem spliceLandingRunsTheNextLaunch : Obligations.SpliceLandingRunsTheNextLaunch := by
  intro n s a b rest level d h hp hs ha hb imm hd l seen out s1
  have lands : (s.lane n).spliceLands = true := h.spliceLands hp <| by
    rcases hs with hw | har | ⟨hr, hrem, -⟩
    · exact .inr (.inl hw)
    · exact .inl har
    · exact .inr (.inr ⟨hr, hrem⟩)
  rw [exec_laneBoundary h.powered, exec_spliceLanding h.powered lands]
  refine ⟨?_, rfl⟩
  have landed : s1 = s.landedOut n a seen
      (if l.state = .running then s.groups else s.groupsWithout n) := by
    have rests : out = (s.lane n).landedOut seen a.desc.rest := by
      dsimp only [out, Lane.landedOut, resolveRest]
      rcases a.desc.rest with _ | _ | _ | _ <;> rcases l.level with _ | (_ | _ | _) <;> rfl
    dsimp only [s1]
    rw [rests, Bool.and_comm]
    rfl
  rw [landed]
  have held (hs : l.state = .waiting ∨ l.state = .armed) : ¬ l.state = .running := by
    rcases hs with hs | hs <;> rw [hs] <;> exact nofun
  rcases or_assoc.2 hs with hs | ⟨hr, hrem, legal⟩
  · obtain ⟨u, ws, t, retires, ran, settled⟩ := landing_runs ha hb imm hd (.inl rfl)
      (l.seenAtLanding s) l.remaining l.stepAddr (s.groupsWithout n)
    rw [if_neg (held hs), laneEvent_runs ((ownActions_lands h hp hs).trans retires)
      (Nat.le_of_succ_le three_le_stepBudget) ran, settled]
    rfl
  · obtain ⟨u, ws, t, retires, ran, settled⟩ := landing_runs ha hb imm hd (.inr rfl)
      (l.seen s) 0 (l.stepAddr + 1) s.groups
    let v : State := s.setLane n { l.taking s with remaining := 0 }
    have vlane : v.lane n = { l.taking s with remaining := 0 } := State.lane_setLane_self ..
    have step : doWork (.step n (l.stepAddr + 1)) v = (u, ws) := by
      rw [← retires, doWork_lands (by rw [vlane]; exact hp)
        (by rw [State.fetchWord_congr (s := s) (t := v) rfl (by rw [vlane]; rfl)]; exact legal),
        vlane, State.setLane_setLane]
      rfl
    have ran3 : runWork 3 [.step n (l.stepAddr + 1)] v = (t, []) := by
      rw [runWork_cons, step, List.append_nil]
      exact ran
    have noted : seen = l.seen s := if_neg (by rw [hr]; exact nofun)
    rw [if_pos hr, noted, laneEvent_runs (ownActions_holdEnds h hr hrem) three_le_stepBudget ran3,
      settled]
    rfl

end Sys2Proof.Machine
end

/-! ## Gates and pins (R44, R99, R106 to R109, R172) -/

section
namespace Sys2Proof.Machine

/-! ### The end and the begin of a segment -/

/-- A high guarded carrier is cut by the end of its segment, and leaves a trail (R108). -/
def Lane.trailsAt (l : Lane) (c : Carrier) (x : CarrierId) : Prop :=
  l.cfg.guard = true ∧ l.gate = .open x ∧ c.level = .high

theorem endSegment_trails {c : Carrier} {x : CarrierId} {l : Lane} (h : l.trailsAt c x) :
    endSegment c x l = { l with gate := .closed, trail := some x } := if_pos h

theorem endSegment_closes {c : Carrier} {x : CarrierId} {l : Lane} (h : ¬ l.trailsAt c x) :
    endSegment c x l = { l with gate := .closed } := if_neg h

theorem beginSegment_trail {x : CarrierId} {l : Lane} (h : l.trail = some x) :
    beginSegment x l = { l with gate := .open x, trail := none } := if_pos h

theorem beginSegment_clear {x : CarrierId} {l : Lane} (h : l.trail ≠ some x) :
    beginSegment x l = { l with gate := if l.cfg.guard then .arming x else .open x } := by
  refine (if_neg h).trans ?_
  cases l.cfg.guard <;> rfl

/-! ### What an event does to the gate, by the carriers called for before and after it -/

section
variable {cs : PerCarrier Carrier} {a b : Lane} {x y : CarrierId}

theorem judgeSegment_ends (ha : a.called = some x) (hb : b.called = none) :
    judgeSegment cs a b = endSegment (cs.get x) x b := by
  simp only [judgeSegment, ha, hb]
  exact if_neg nofun

theorem judgeSegment_begins (ha : a.called = none) (hb : b.called = some y) :
    judgeSegment cs a b = beginSegment y b := by
  simp only [judgeSegment, ha, hb]
  exact if_neg nofun

theorem judgeSegment_switches (ha : a.called = some x) (hb : b.called = some y) (h : x ≠ y) :
    judgeSegment cs a b = beginSegment y (endSegment (cs.get x) x b) := by
  simp only [judgeSegment, ha, hb]
  exact if_neg fun hc => h (Option.some.inj hc)

/-- The trail condition names the carrier called for before. -/
theorem Lane.trailsAt_iff (ha : a.called = some x) :
    (b.cfg.guard = true ∧ ∃ x, a.called = some x ∧ b.gate = .open x ∧ (cs.get x).level = .high) ↔
      b.trailsAt (cs.get x) x := by
  unfold Lane.trailsAt
  constructor
  · rintro ⟨guard, z, hz, rest⟩
    rw [ha] at hz
    cases hz
    exact ⟨guard, rest⟩
  · rintro ⟨guard, rest⟩
    exact ⟨guard, x, ha, rest⟩

end

/-! ### The carrier a lane calls for -/

theorem Lane.called_on {l : Lane} (h : l.state = .running ∨ l.state = .waiting) :
    (∀ x, l.level = some (.carrier x) → l.called = some x) ∧
      ((∀ x, l.level ≠ some (.carrier x)) → l.called = none) := by
  have called : l.called = match l.level with
      | some (.carrier x) => some x
      | some .low | some .high | none => none := by
    unfold Lane.called
    rcases h with h | h <;> rw [h] <;> rcases l.level with _ | (_ | _ | _) <;> rfl
  rw [called]
  refine ⟨fun x hx => by rw [hx], fun h => ?_⟩
  rcases hl : l.level with _ | (_ | _ | x)
  · rfl
  · rfl
  · rfl
  · exact absurd hl (h x)

theorem Lane.called_off {l : Lane} (h : l.state = .idle ∨ l.state = .armed ∨ l.state = .faulted) :
    l.called = none := by
  unfold Lane.called
  rcases h with h | h | h <;> rw [h]

/-! ### The pin, by the lane's state (R44) -/

section
variable {n : LaneId} {s : State}

theorem State.pinLevel_trail (hr : s.port.rstnLow = false) (h : (s.lane n).trail ≠ none) :
    s.pinLevel n = .high := by
  unfold State.pinLevel
  rw [hr, if_pos (Option.isSome_iff_ne_none.2 h)]
  rfl

/-- With RSTN high and no trail the pin is the state's. -/
theorem State.pinLevel_state (hr : s.port.rstnLow = false) (h : (s.lane n).trail = none) :
    ((s.lane n).state = .idle ∨ (s.lane n).state = .armed → s.pinLevel n = (s.lane n).restPin) ∧
      ((s.lane n).state = .faulted → s.pinLevel n = (s.lane n).cfg.fault.pin) ∧
      ((s.lane n).state = .running ∨ (s.lane n).state = .waiting →
        ((s.lane n).level = some .low → s.pinLevel n = .low) ∧
        ((s.lane n).level = some .high → s.pinLevel n = .high) ∧
        ∀ x, (s.lane n).level = some (.carrier x) →
          s.pinLevel n = (s.lane n).gatePin s.carriers) := by
  unfold State.pinLevel
  rw [hr, h]
  refine ⟨?_, fun hs => by rw [hs]; rfl, ?_⟩
  · rintro (hs | hs) <;> rw [hs] <;> rfl
  · rintro (hs | hs) <;> rw [hs] <;>
      exact ⟨fun hl => by rw [hl]; rfl, fun hl => by rw [hl]; rfl, fun x hl => by rw [hl]; rfl⟩

theorem Lane.gatePin_open {l : Lane} {y : CarrierId} (h : l.gate = .open y)
    (cs : PerCarrier Carrier) : l.gatePin cs = levelPin (cs.get y).level := by
  unfold Lane.gatePin
  rw [h]

theorem Lane.gatePin_other {l : Lane} (h : ∀ y, l.gate ≠ .open y) (cs : PerCarrier Carrier) :
    l.gatePin cs = .low := by
  unfold Lane.gatePin
  cases hg : l.gate with
  | closed | arming y | shut y => rfl
  | _ y => exact absurd hg (h y)

end

/-- Settles O49: the gate by the segment an event ends and the one it begins, the pin by the lane's
state. -/
theorem gatesAndPins : Obligations.GatesAndPins := by
  refine ⟨fun cs l m => ?_, fun l => ⟨Lane.called_on, Lane.called_off⟩, fun c => ?_, ⟨rfl, rfl⟩,
    ⟨rfl, rfl, rfl⟩, fun n s => ?_⟩
  · intro open_
    refine ⟨judgeSegment_same, fun x ha hb => ?_, fun y ha hb => ?_, fun x y ha hb hxy => ?_⟩
    · have trails : open_ ↔ m.trailsAt (cs.get x) x := Lane.trailsAt_iff ha
      rw [judgeSegment_ends ha hb, trails]
      exact ⟨endSegment_trails, endSegment_closes⟩
    · rw [judgeSegment_begins ha hb]
      exact ⟨beginSegment_trail, beginSegment_clear⟩
    · have trails : open_ ↔ m.trailsAt (cs.get x) x := Lane.trailsAt_iff ha
      rw [judgeSegment_switches ha hb hxy, trails]
      refine ⟨fun cut => ?_, fun closed trail => ?_, fun closed trail => ?_⟩
      · rw [endSegment_trails cut, beginSegment_clear fun hc => hxy (Option.some.inj hc)]
        dsimp only
        rw [if_pos cut.1]
      · rw [endSegment_closes closed]
        exact beginSegment_trail trail
      · rw [endSegment_closes closed]
        exact beginSegment_clear trail
  · exact ⟨fun h => if_pos h, fun h => if_neg (by rw [h]; exact nofun)⟩
  · intro l
    refine ⟨fun hr => if_pos hr, State.pinLevel_trail, fun hr ht => ?_⟩
    obtain ⟨rest, fault, on⟩ := State.pinLevel_state hr ht
    refine ⟨rest, fault, fun hs => ?_⟩
    obtain ⟨low, high, carrier⟩ := on hs
    refine ⟨low, high, fun x hx => ?_⟩
    rw [carrier x hx]
    exact ⟨fun y hy => Lane.gatePin_open hy _, fun hg => Lane.gatePin_other hg _⟩

end Sys2Proof.Machine
end

/-! ## SUBMIT of an ON_GROUP descriptor at an IDLE lane (R76 to R78, R82, R115 to R118) -/

section
namespace Sys2Proof.Machine

theorem LaneId.ofCode_of_num {c : BitVec 3} {n : LaneId} (h : c.toNat = n.num) :
    LaneId.ofCode c = some n := by
  obtain rfl : c = BitVec.ofNat 3 n.num := by
    rw [← h, BitVec.ofNat_toNat, BitVec.setWidth_eq]
  cases n <;> rfl

/-- A staged ON_GROUP descriptor that passes the checks of R76 is the one the staging words hold. -/
theorem checkSubmit_onGroup {n : LaneId} {g : GroupId} {d : Descriptor} {s : State}
    (idle : (s.lane n).state = .idle) (room : (s.lane n).queue.slots < 4)
    (staged : s.staging.Holds d) (hd : d.start = .onGroup g)
    (member : LaneSet.has (s.group g).members n = true) : checkSubmit n s = .ok d := by
  obtain ⟨entry, start, passes, rest, tag⟩ := d
  obtain rfl : start = .onGroup g := hd
  obtain ⟨hentry, hpasses, htag, hrest, hcode, hselector⟩ := staged
  have start : s.staging.start = some (.onGroup g) := by
    unfold Staging.start Staging.startCode Staging.selector
    rw [hcode, hselector]
    cases g <;> rfl
  have rest : restLevelOf s.staging.restCode = some rest := by
    unfold Staging.restCode
    rw [hrest]
    cases rest <;> rfl
  unfold checkSubmit
  rw [if_neg (by rw [idle]; exact nofun), if_neg (by omega), start, rest]
  refine (if_pos member).trans ?_
  rw [show entry = s.staging.entry from hentry, show passes = s.staging.passes from hpasses,
    show tag = s.staging.tag from htag]

/-- The state of a SUBMIT that has put its descriptor on lane n's queue and reported OK (R77). -/
def State.submitted (s : State) (n : LaneId) (d : Descriptor) : State :=
  ((s.wordAt .write 0x03).report .ok 0x03).setLane n
    { s.lane n with
      queue := { (s.lane n).queue with pending := (s.lane n).queue.pending ++ [d] } }

theorem State.submitted_lane (s : State) (n : LaneId) (d : Descriptor) :
    (s.submitted n d).lane n =
      { s.lane n with
        queue := { (s.lane n).queue with pending := (s.lane n).queue.pending ++ [d] } } :=
  State.lane_setLane_self ..

/-- SUBMIT at an IDLE lane activates its descriptor, between boundaries (R78). -/
theorem exec_submit_idle {lane : BitVec 3} {n : LaneId} {d : Descriptor} {s : State}
    (listens : s.portListens = true) (init : s.init = none) (hn : lane.toNat = n.num)
    (idle : (s.lane n).state = .idle) (checked : checkSubmit n (s.wordAt .write 0x03) = .ok d) :
    exec (.submit lane) s = .next (settle s (activate n false (s.submitted n d)).1) := by
  have word : exec (.submit lane) s =
      .next (laneCommand submitTo lane (s.wordAt .write 0x03)) :=
    congrArg Host.Outcome.next (hostWord_of_listens listens ..)
  have quiet : ¬ (s.wordAt .write 0x03).initBusy = true := by
    unfold State.initBusy
    rw [show (s.wordAt .write 0x03).init = none from init]
    exact nofun
  rw [word, laneCommand, if_neg quiet, LaneId.ofCode_of_num hn]
  dsimp only
  rw [submitTo, checked]
  exact congrArg Host.Outcome.next (if_pos idle)

/-- An activation that leaves the lane ARMED, calling for no carrier before or after it, settles as
it stands. -/
theorem settle_armed {s u : State} {n : LaneId} {x : Lane} (lanes : u.lanes = s.lanes)
    (deferral : u.evq.deferral = s.evq.deferral) (idle : (s.lane n).state = .idle)
    (armed : x.state = .armed) : settle s (u.setLane n x) = u.setLane n x := by
  rw [settle_setLane (.inl lanes) (.inl deferral), judgeSegment_same]
  rw [Lane.called_off (.inl idle), Lane.called_off (.inr (.inl armed))]

theorem State.released_setLane (s : State) (n : LaneId) (x : Lane) (g : GroupId) (all : LaneSet)
    (v : PerLane Lane) : (s.setLane n x).released g all v = s.released g all v := by
  unfold State.released
  rw [State.group_setLane, offerInfo_setLane]
  rfl

/-- A release that leaves every lane calling for what it called for settles as it stands. -/
theorem settle_released {s t : State} {g : GroupId} {all : LaneSet} {v : PerLane Lane}
    (deferral : t.evq.deferral = s.evq.deferral)
    (called : ∀ m, (s.lane m).called = (v.get m).called) :
    settle s (t.released g all v) = t.released g all v := by
  refine settle_eq_self (fun m => judgeSegment_same (called m)) (added := []) ?_ List.Pairwise.nil
  rw [List.append_nil, ← deferral]
  exact (offerInfo_frame ..).1

/-- Settles O33: SUBMIT at an IDLE lane is the activation `State.Activates` tells. -/
theorem submitArrivesAtGroup : Obligations.SubmitArrivesAtGroup := by
  intro lane n g d s listens init hn idle empty room staged hd member shut s1 armed all
  let v : State := s.submitted n d
  have vlane : v.lane n = _ := s.submitted_lane n d
  have pending : (v.lane n).queue.pending = [d] := by
    rw [vlane, empty]
    rfl
  have checked : checkSubmit n (s.wordAt .write 0x03) = .ok d :=
    checkSubmit_onGroup (s := s.wordAt .write 0x03) idle room staged hd member
  have event := exec_submit_idle listens init hn idle checked
  have activates := activate_activates pending false
  unfold State.Activates at activates
  rw [hd, vlane] at activates
  obtain ⟨-, faults, holds, releases⟩ := activates
  have others {m : LaneId} (hm : m ≠ n) : v.lane m = s.lane m := State.lane_setLane_ne _ _ hm
  have set (met : Bool) : v.setLane n (armed met) = s1.setLane n (armed met) :=
    State.setLane_setLane ..
  have shut_iff : shut ↔ ∃ m, m ≠ n ∧ LaneSet.has (v.group g).members m = true ∧
      (v.lane m).state = .faulted := by
    refine exists_congr fun m => ⟨fun ⟨hm, hf⟩ => ?_, fun ⟨ne, hm, hf⟩ => ⟨hm, others ne ▸ hf⟩⟩
    have ne : m ≠ n := fun h => nomatch (h ▸ hf).symm.trans idle
    exact ⟨ne, hm, (congrArg Lane.state (others ne)).trans hf⟩
  refine ⟨fun hs => ?_, fun hs hall => ?_, fun hs hall => ?_⟩
  · rw [event, (faults member (shut_iff.1 hs)).1]
    exact congrArg (fun u => Host.Outcome.next (settle s (faultLane .barrierBroken n u)))
      (set false)
  · rw [event, (holds member (fun h => hs (shut_iff.2 h)) hall).1]
    refine congrArg Host.Outcome.next ?_
    rw [show v.setLane n _ = s1.setLane n (armed false) from set false]
    exact settle_armed (u := s1.setGroup g { s.group g with arrived := all }) rfl rfl idle rfl
  · rw [event, (releases hall fun h => hs (shut_iff.2 h)).2]
    refine congrArg Host.Outcome.next ?_
    have offered (w : PerLane Lane) : v.released g all w = s1.released g all w :=
      State.released_setLane ..
    refine (congrArg (settle s) (Eq.trans ?_ (offered _))).trans
      (settle_released (t := s1) rfl fun m => ?_)
    · refine congrArg (v.released g all) (congrArg PerLane.build (funext fun m => ?_))
      by_cases hm : m = n
      · exact (if_pos hm).trans (if_pos hm).symm
      · rw [if_neg hm, if_neg hm, others hm]
        rfl
    · rw [PerLane.get_build]
      split
      · next hm => rw [hm, Lane.called_off (.inl idle), Lane.called_off (.inr (.inl rfl))]
      · split
        · rfl
        · split <;> rfl

end Sys2Proof.Machine
end

/-! ## A fault and the barriers it breaks, in the order of the fault entries (R67, R96, R121) -/

section
namespace Sys2Proof.Machine

/-! ### The order of the breaks -/

@[simp] theorem GroupId.other_other (g : GroupId) : g.other.other = g := by cases g <;> rfl

/-- The groups broken at once stand in one of the two orders (log 10). -/
theorem brokenGroups_order (s : State) (ls : List LaneId) :
    ∃ g, (groupHit s ls g = false → groupHit s ls g.other = false) ∧
      brokenGroups s ls = [g, g.other].filter (groupHit s ls) := by
  unfold brokenGroups
  by_cases h0 : groupHit s ls .g0 = true
  · by_cases h1 : groupHit s ls .g1 = true
    · by_cases order : Config.groupOneBreaksFirst s.tb.time = true
      · exact ⟨.g1, by simp [h1], by simp [h0, h1, order, GroupId.other]⟩
      · exact ⟨.g0, by simp [h0], by simp [h0, h1, order, GroupId.other]⟩
    · exact ⟨.g0, by simp [h0], by simp [h0, h1, GroupId.other]⟩
  · by_cases h1 : groupHit s ls .g1 = true
    · exact ⟨.g1, by simp [h1], by simp [h0, h1, GroupId.other]⟩
    · exact ⟨.g0, by simp [h1, GroupId.other], by simp [h0, h1, GroupId.other]⟩

theorem heldAt_filter (s : State) (p : GroupId → Bool) (g h : GroupId) :
    heldAt s ([g, h].filter p) =
      (if p g then LaneSet.toList (s.group g).arrived else []) ++
        (if p h then LaneSet.toList (s.group h).arrived else []) := by
  cases hg : p g <;> cases hh : p h <;> simp [heldAt, hg, hh]

theorem breaksSecond_first {s : State} {ls : List LaneId} {g : GroupId}
    (h : breaksSecond s ls g = true) :
    groupHit s ls g = false ∧ groupHit s ls g.other = true := by
  simp only [breaksSecond, Bool.and_eq_true, Bool.not_eq_true'] at h
  obtain ⟨⟨⟨notFirst, -⟩, other⟩, -⟩ := h
  exact ⟨notFirst, other⟩

/-- The lanes held at a group, where the faults of the lanes given break it. -/
def State.brokenAt (s : State) (ls : List LaneId) (g : GroupId) : List LaneId :=
  if breaks s ls g then LaneSet.toList (s.group g).arrived else []

/-- The lanes of the second break: those held at the one group it can break, which stands behind the
groups broken first (R121). -/
theorem heldAt_secondBreak {s : State} {ls : List LaneId} {g : GroupId}
    (h : breaksSecond s ls g = false) :
    heldAt (emptyArrived (brokenGroups s ls) s)
        (brokenGroups (emptyArrived (brokenGroups s ls) s) (heldAt s (brokenGroups s ls))) =
      if breaksSecond s ls g.other then LaneSet.toList (s.group g.other).arrived else [] := by
  let s1 := emptyArrived (brokenGroups s ls) s
  let lanes1 := heldAt s (brokenGroups s ls)
  have hit : groupHit s1 lanes1 = breaksSecond s ls := funext fun k => by
    rw [Bool.eq_iff_iff, ← mem_brokenGroups, mem_secondBreak]
  have kept (k : GroupId) (hk : breaksSecond s ls k = true) : s1.group k = s.group k := by
    rw [emptyArrived_group, if_neg]
    rw [mem_brokenGroups, (breaksSecond_first hk).1]
    exact nofun
  obtain ⟨k, -, order⟩ := brokenGroups_order s1 lanes1
  rw [order, hit, heldAt_filter]
  have held :
      (if breaksSecond s ls g.other then LaneSet.toList (s1.group g.other).arrived else []) =
      if breaksSecond s ls g.other then LaneSet.toList (s.group g.other).arrived else [] := by
    split
    · next hk => rw [kept _ hk]
    · rfl
  rcases GroupId.eq_or_eq_other g k with rfl | rfl
  · rw [h, held]
    rfl
  · rw [GroupId.other_other, h, held]
    exact List.append_nil _

/-- The broken lanes fault set by set, and a set broken second behind the one broken first. -/
theorem breakBarriers_order (ls : List LaneId) (s : State) :
    ∃ g, (breaksSecond s ls g = false ∧
        (groupHit s ls g = false → groupHit s ls g.other = false)) ∧
      (breakBarriers ls s).2 = s.brokenAt ls g ++ s.brokenAt ls g.other := by
  obtain ⟨g, first, order⟩ := brokenGroups_order s ls
  have notSecond : breaksSecond s ls g = false := Bool.eq_false_iff.2 fun hg => by
    obtain ⟨notFirst, other⟩ := breaksSecond_first hg
    exact nomatch (first notFirst).symm.trans other
  refine ⟨g, ⟨notSecond, first⟩, ?_⟩
  have broken : (breakBarriers ls s).2 =
      heldAt s ([g, g.other].filter (groupHit s ls)) ++
        if breaksSecond s ls g.other then LaneSet.toList (s.group g.other).arrived else [] := by
    rw [← order, ← heldAt_secondBreak notSecond]
    rfl
  rw [broken, heldAt_filter, List.append_assoc]
  unfold State.brokenAt breaks
  rw [notSecond, Bool.or_false]
  refine congrArg _ ?_
  cases second : breaksSecond s ls g.other with
  | false => simp
  | true => simp [(breaksSecond_first second).1]

/-! ### The fault of one lane, with every break it causes -/

/-- The cause each lane of one fault's breaks takes (R121). -/
def causeOf (cause : FaultCause) (n m : LaneId) : FaultCause :=
  if m = n then cause else .barrierBroken

theorem depart_members (n : LaneId) (s : State) (g : GroupId) :
    ((depart n s).group g).members = (s.group g).members := by
  simp [depart, State.group]

/-- The fault of one lane is its fault entry and the broken lanes' behind it, in their order. -/
theorem faultLane_eq (cause : FaultCause) {n : LaneId} {s : State}
    (nodup : (n :: (breakBarriers [n] (depart n s)).2).Nodup) :
    faultLane cause n s =
      s.postAborted (causeOf cause n) (n :: (breakBarriers [n] (depart n s)).2)
        ((breakBarriers [n] (depart n s)).1.withFaults (causeOf cause n)
          (n :: (breakBarriers [n] (depart n s)).2)) := by
  have lanes : ∀ m ∈ n :: (breakBarriers [n] (depart n s)).2,
      (breakBarriers [n] (depart n s)).1.lane m = s.lane m := fun m _ => by
    rw [breakBarriers_state]
    rfl
  rw [← foldl_enterFault (causeOf cause n) nodup lanes, List.foldl_cons]
  unfold faultLane causeOf
  rw [if_pos rfl]
  refine List.foldl_ext _ _ _ fun t m hm => ?_
  have ne : m ≠ n := fun h => (List.nodup_cons.1 nodup).1 (h ▸ hm)
  rw [if_neg ne]

/-- The groups and the lanes of a fault of lane n that breaks the barriers the lanes given are held
at, before any record is offered (R67, R121). -/
def State.faultedWith (s : State) (cause : FaultCause) (n : LaneId) (ls : List LaneId) : State :=
  { s with
    groups := PerGroup.build fun g =>
      { s.group g with
        arrived := if breaks (depart n s) [n] g then 0 else LaneSet.erase (s.group g).arrived n }
    lanes := PerLane.build fun m =>
      if m = n then (s.lane m).faulted cause
      else if m ∈ ls then (s.lane m).faulted .barrierBroken
      else s.lane m }

theorem breakBarriers_withFaults (cause : FaultCause) (n : LaneId) (s : State) (ls : List LaneId) :
    (breakBarriers [n] (depart n s)).1.withFaults (causeOf cause n) (n :: ls) =
      s.faultedWith cause n ls := by
  have group (g : GroupId) : (depart n s).group g =
      { s.group g with arrived := LaneSet.erase (s.group g).arrived n } := PerGroup.get_build _ g
  have groups : (PerGroup.build fun g =>
      { (depart n s).group g with
        arrived := if breaks (depart n s) [n] g then 0 else ((depart n s).group g).arrived }) =
      (s.faultedWith cause n ls).groups := by
    simp only [group]
    rfl
  have lanes : (PerLane.build fun m =>
      if m ∈ n :: ls then (s.lane m).faulted (causeOf cause n m) else s.lane m) =
      (s.faultedWith cause n ls).lanes := by
    unfold State.faultedWith causeOf
    dsimp only
    refine congrArg PerLane.build (funext fun m => ?_)
    by_cases hm : m = n
    · rw [if_pos (List.mem_cons.2 (.inl hm)), if_pos hm, if_pos hm]
    · simp only [List.mem_cons, hm, false_or, if_false]
  rw [breakBarriers_state]
  exact congrArg₂ (fun v w => { s with groups := v, lanes := w }) groups lanes

theorem State.mem_brokenAt_depart {s : State} {n m : LaneId} {g : GroupId}
    (h : m ∈ (depart n s).brokenAt [n] g) :
    m ≠ n ∧ LaneSet.has (LaneSet.erase (s.group g).arrived n) m = true := by
  unfold State.brokenAt at h
  split at h
  · rw [LaneSet.mem_toList, depart_arrived] at h
    refine ⟨fun hm => ?_, h⟩
    rw [LaneSet.has_erase, hm, decide_eq_true rfl, Bool.not_true, Bool.and_false] at h
    exact nomatch h
  · exact nomatch h

theorem State.nodup_brokenAt (s : State) (ls : List LaneId) (g : GroupId) :
    (s.brokenAt ls g).Nodup := by
  unfold State.brokenAt
  split
  · exact LaneId.nodup_all.filter _
  · exact List.nodup_nil

/-- Fault entry of lane n with the breaks it causes, no lane held at both groups (R67, R121). -/
theorem faultLane_breaks (cause : FaultCause) {n : LaneId} {s : State}
    (apart : ∀ g m, LaneSet.has (LaneSet.erase (s.group g).arrived n) m = true →
      ¬ LaneSet.has (LaneSet.erase (s.group g.other).arrived n) m = true) :
    ∃ g, (breaksSecond (depart n s) [n] g = false ∧
        (groupHit (depart n s) [n] g = false → groupHit (depart n s) [n] g.other = false)) ∧
      faultLane cause n s =
        s.postAborted (causeOf cause n)
          (n :: ((depart n s).brokenAt [n] g ++ (depart n s).brokenAt [n] g.other))
          (s.faultedWith cause n
            ((depart n s).brokenAt [n] g ++ (depart n s).brokenAt [n] g.other)) := by
  obtain ⟨g, first, order⟩ := breakBarriers_order [n] (depart n s)
  refine ⟨g, first, ?_⟩
  have nodup : (n :: (breakBarriers [n] (depart n s)).2).Nodup := by
    rw [order, List.nodup_cons, List.mem_append, List.nodup_append']
    refine ⟨?_, State.nodup_brokenAt .., State.nodup_brokenAt .., fun m hg ho => ?_⟩
    · rintro (h | h) <;> exact (State.mem_brokenAt_depart h).1 rfl
    · exact apart g m (State.mem_brokenAt_depart hg).2 (State.mem_brokenAt_depart ho).2
  rw [faultLane_eq cause nodup, breakBarriers_withFaults, order]

/-! ### What the offers of the records leave -/

section
variable (old : State) (cause : LaneId → FaultCause)

theorem State.postAborted_groups (ns : List LaneId) (s : State) :
    (old.postAborted cause ns s).groups = s.groups := by
  induction ns generalizing s with
  | nil => rfl
  | cons n rest ih =>
    rw [State.postAborted_cons, ih]
    unfold State.postAbortedOf postTerminal
    split
    · rfl
    · split <;> rfl

theorem State.postAborted_lane_of_notMem {ns : List LaneId} {m : LaneId} (h : m ∉ ns) (s : State) :
    (old.postAborted cause ns s).lane m = s.lane m := by
  induction ns generalizing s with
  | nil => rfl
  | cons n rest ih =>
    obtain ⟨ne, hrest⟩ := not_or.1 (List.mem_cons.not.1 h)
    rw [State.postAborted_cons, ih hrest, State.postAbortedOf_lane_ne _ _ _ ne]

theorem State.postAborted_alike (ns : List LaneId) (s : State) :
    s.LanesAlike (old.postAborted cause ns s) := by
  induction ns generalizing s with
  | nil => exact .of_lanes rfl
  | cons n rest ih =>
    rw [State.postAborted_cons]
    refine State.LanesAlike.trans ?_ (ih _)
    unfold State.postAbortedOf
    split
    · exact .of_lanes rfl
    · exact postTerminal_alike ..

/-- With room for every record each is placed, behind the ones before it (R96, R149). -/
theorem State.postAborted_placed (ns : List LaneId) {s : State} (none : s.evq.deferral = [])
    (room : s.evq.placed.length + ns.length ≤ 32) :
    (old.postAborted cause ns s).evq.placed.map (fun r => r.body) =
      s.evq.placed.map (fun r => r.body) ++
        ns.filterMap fun m =>
          (old.lane m).queue.active.map fun a =>
            .aborted m a.desc.tag (old.lane m).passesDone (.fault (cause m))
              (old.lane m).stepAddr := by
  induction ns generalizing s with
  | nil => exact (List.append_nil _).symm
  | cons n rest ih =>
    rw [List.length_cons] at room
    rw [State.postAborted_cons]
    unfold State.postAbortedOf
    cases ha : (old.lane n).queue.active with
    | none =>
      dsimp only
      rw [ih none (by omega), List.filterMap_cons, ha]
      rfl
    | some a =>
      have places : s.evq.canPlace = true :=
        (EventQueue.canPlace_iff _).2 ⟨by omega, none⟩
      let body : EventBody := .aborted n a.desc.tag (old.lane n).passesDone (.fault (cause n))
        (old.lane n).stepAddr
      let placed : State := { s with evq := s.evq.place ⟨s.tb.time, 0, body⟩ }
      have posted : postTerminal n a.desc body s = placed := if_pos places
      have bodies : placed.evq.placed.map (fun r => r.body) =
          s.evq.placed.map (fun r => r.body) ++ [body] := List.map_append
      have tail := ih (s := placed) none
        (by rw [show placed.evq.placed.length = _ from List.length_append, List.length_singleton]
            omega)
      dsimp only
      rw [posted, tail, bodies, List.append_assoc, List.filterMap_cons, ha]
      rfl

end

/-! ### A group broken alone -/

section
variable {cause : FaultCause} {n : LaneId} {g : GroupId} {s : State}

/-- The lanes held at group g beside lane n (R121). -/
def State.heldBeside (s : State) (n : LaneId) (g : GroupId) : List LaneId :=
  LaneId.all.filter fun m => decide (m ≠ n) && LaneSet.has (s.group g).arrived m

theorem State.mem_heldBeside {m : LaneId} :
    m ∈ s.heldBeside n g ↔ m ≠ n ∧ LaneSet.has (s.group g).arrived m = true := by
  simp [State.heldBeside]

/-- The fault of a member of a group at which other lanes are held breaks it (R121). -/
theorem groupHit_depart (member : LaneSet.has (s.group g).members n = true)
    (held : LaneSet.erase (s.group g).arrived n ≠ 0) : groupHit (depart n s) [n] g = true := by
  unfold groupHit
  rw [depart_arrived, depart_members, decide_eq_true held, Bool.true_and, List.any_cons]
  exact Bool.or_eq_true_iff.2 (.inl member)

theorem State.brokenAt_of_empty {ls : List LaneId} (h : (s.group g).arrived = 0) :
    s.brokenAt ls g = [] := by
  unfold State.brokenAt
  rw [h]
  split <;> rfl

theorem State.brokenAt_of_hit (hit : groupHit (depart n s) [n] g = true) :
    (depart n s).brokenAt [n] g = s.heldBeside n g := by
  unfold State.brokenAt breaks LaneSet.toList State.heldBeside
  rw [hit, Bool.true_or, if_pos rfl, depart_arrived]
  refine List.filter_congr fun m _ => ?_
  rw [LaneSet.has_erase, Bool.and_comm, decide_not]

/-- Fault entry of a member of the one group at which lanes are held beside it (R121). -/
theorem faultLane_breaksOne (member : LaneSet.has (s.group g).members n = true)
    (held : LaneSet.erase (s.group g).arrived n ≠ 0)
    (alone : LaneSet.erase (s.group g.other).arrived n = 0) :
    faultLane cause n s =
      s.postAborted (causeOf cause n) (n :: s.heldBeside n g)
        (s.faultedWith cause n (s.heldBeside n g)) := by
  have apart (k : GroupId) (m : LaneId)
      (hm : LaneSet.has (LaneSet.erase (s.group k).arrived n) m = true) :
      ¬ LaneSet.has (LaneSet.erase (s.group k.other).arrived n) m = true := by
    rcases GroupId.eq_or_eq_other g k with rfl | rfl
    · rw [alone]
      simp
    · rw [alone] at hm
      simp at hm
  obtain ⟨k, -, faults⟩ := faultLane_breaks cause apart
  have here : (depart n s).brokenAt [n] g = s.heldBeside n g :=
    State.brokenAt_of_hit (groupHit_depart member held)
  have there : (depart n s).brokenAt [n] g.other = [] :=
    State.brokenAt_of_empty (by rw [depart_arrived, alone])
  rw [faults]
  rcases GroupId.eq_or_eq_other g k with rfl | rfl
  · rw [here, there, List.append_nil]
  · rw [GroupId.other_other, here, there, List.nil_append]

theorem State.faultedWith_group (ls : List LaneId) (h : GroupId) :
    (s.faultedWith cause n ls).group h =
      { s.group h with
        arrived :=
          if breaks (depart n s) [n] h then 0 else LaneSet.erase (s.group h).arrived n } :=
  PerGroup.get_build _ h

theorem State.faultedWith_lane (ls : List LaneId) (m : LaneId) :
    (s.faultedWith cause n ls).lane m =
      if m = n then (s.lane m).faulted cause
      else if m ∈ ls then (s.lane m).faulted .barrierBroken
      else s.lane m :=
  PerLane.get_build _ m

/-- Behind the offers a faulted lane has its fields, an empty ACTIVE slot and its PENDING list. -/
theorem State.postAborted_faulted {old t : State} {causes : LaneId → FaultCause}
    {ns : List LaneId} {m : LaneId} {c : FaultCause} (h : t.lane m = (s.lane m).faulted c) :
    let u := old.postAborted causes ns t
    (u.lane m).state = .faulted ∧ (u.lane m).cause = some c ∧
      (u.lane m).stepAddr = (s.lane m).stepAddr ∧ (u.lane m).passesDone = (s.lane m).passesDone ∧
      (u.lane m).stack = [] ∧ (u.lane m).queue.active = none ∧
      (u.lane m).queue.pending = (s.lane m).queue.pending := by
  intro u
  obtain ⟨q, hq⟩ := State.postAborted_lane old causes ns t m
  have alike := (State.postAborted_alike old causes ns t).lane m
  rw [h] at hq alike
  have active : (u.lane m).queue.active = none :=
    Option.isNone_iff_eq_none.1 (Option.isSome_eq_false_iff.1 alike.active)
  rw [show u.lane m = _ from hq] at active ⊢
  exact ⟨rfl, rfl, rfl, rfl, rfl, active, (congrArg (·.queue.pending) hq).symm.trans alike.pending⟩

end

/-- Settles O47: the fault's breaks are put in order first, and then its fault entries come to
fields and offers; a group broken alone is a case of it. -/
theorem brokenBarrierFaultsHeldLanes : Obligations.BrokenBarrierFaultsHeldLanes := by
  refine ⟨fun cause n g s member left alone _ => ?_, fun cause l => rfl, fun cause n s => ?_⟩
  · intro held order t
    let ls := s.heldBeside n g
    have faults : t = s.postAborted (causeOf cause n) (n :: ls) (s.faultedWith cause n ls) :=
      faultLane_breaksOne member left alone
    have group (h : GroupId) : t.group h = (s.faultedWith cause n ls).group h := by
      rw [faults]
      exact congrArg (PerGroup.get · h) (State.postAborted_groups ..)
    refine ⟨fun h => ?_, ?_⟩
    · rw [group, State.faultedWith_group]
      refine ⟨rfl, rfl, ?_⟩
      dsimp only
      rcases GroupId.eq_or_eq_other g h with rfl | rfl
      · rw [breaks, groupHit_depart member left, Bool.true_or, if_pos rfl]
      · rw [alone, ite_self]
    have self : (s.faultedWith cause n ls).lane n = (s.lane n).faulted cause := by
      rw [State.faultedWith_lane, if_pos rfl]
    have beside {m : LaneId} (hm : held m) :
        (s.faultedWith cause n ls).lane m = (s.lane m).faulted .barrierBroken := by
      rw [State.faultedWith_lane, if_neg hm.1, if_pos (State.mem_heldBeside.2 hm)]
    have apart {m : LaneId} (ne : m ≠ n) (hm : ¬ held m) : m ∉ ls := fun h =>
      hm (State.mem_heldBeside.1 h)
    rw [faults]
    obtain ⟨state, selfCause, -⟩ := State.postAborted_faulted (old := s) self
    refine ⟨state, selfCause, fun m hm => State.postAborted_faulted (beside hm),
      fun m ne hm => ?_, State.postAborted_placed s (causeOf cause n) (n :: ls)
        (s := s.faultedWith cause n ls)⟩
    rw [State.postAborted_lane_of_notMem _ _ (List.not_mem_cons_of_ne_of_not_mem ne (apart ne hm)),
      State.faultedWith_lane, if_neg ne, if_neg (apart ne hm)]
  · intro left first second broken fell apart
    have group (g : GroupId) : ((depart n s).group g).arrived = left g := depart_arrived ..
    have firsts : first = groupHit (depart n s) [n] := funext fun g => by
      simp only [groupHit, depart_arrived, depart_members, List.any_cons, List.any_nil,
        Bool.or_false, first, left]
    have seconds : second = breaksSecond (depart n s) [n] := funext fun g => by
      simp only [breaksSecond, depart_arrived, depart_members, second, firsts, left]
    have breaking : broken = breaks (depart n s) [n] := funext fun g => by
      simp only [breaks, broken, firsts, seconds]
    have lists : fell = (depart n s).brokenAt [n] := funext fun g => by
      unfold State.brokenAt
      dsimp only [fell]
      rw [breaking, group]
      cases breaks (depart n s) [n] g <;> simp [LaneSet.toList]
    obtain ⟨g, order, faults⟩ := faultLane_breaks cause (n := n) (s := s) fun g m hg ho => by
      cases g
      · exact apart m ⟨hg, ho⟩
      · exact apart m ⟨ho, hg⟩
    refine ⟨g, ?_, ?_⟩
    · rw [firsts, seconds]
      exact order
    · rw [faults, lists, breaking]
      rfl

end Sys2Proof.Machine
end

/-! ## The lane commands (R4, R76 to R81, R86, R89, R90, R93 to R96, R110, R169, R178) -/

section
namespace Sys2Proof.Machine

/-! ### The lane a command names (R4, R169) -/

theorem LaneId.ofCode_of_le {c : BitVec 3} (h : 6 ≤ c.toNat) : LaneId.ofCode c = none := by
  decide +revert

/-- Outside INIT a lane command is judged by its lane number first (R169). -/
theorem hostWord_laneCommand {s : State} (listens : s.portListens = true) (init : s.init = none)
    (op : LaneId → State → State) (lane : BitVec 3) :
    hostWord .write Reg.laneCmd.index (laneCommand op lane) s =
      (LaneId.ofCode lane).elim ((s.wordAt .write 0x03).report .badField 0x03)
        (op · (s.wordAt .write 0x03)) := by
  have idle : (s.wordAt .write 0x03).initBusy = false := by simp [State.initBusy, State.wordAt, init]
  have asked : hostWord .write Reg.laneCmd.index (laneCommand op lane) s
      = laneCommand op lane (s.wordAt .write 0x03) := hostWord_of_listens listens ..
  rw [asked, laneCommand, if_neg (Bool.eq_false_iff.1 idle)]
  cases LaneId.ofCode lane <;> rfl

theorem hostWord_laneCommand_lane {s : State} {lane : BitVec 3} {n : LaneId}
    (listens : s.portListens = true) (init : s.init = none) (hn : lane.toNat = n.num)
    (op : LaneId → State → State) :
    hostWord .write Reg.laneCmd.index (laneCommand op lane) s = op n (s.wordAt .write 0x03) := by
  rw [hostWord_laneCommand listens init, LaneId.ofCode_of_num hn]
  rfl

theorem hostWord_laneCommand_noLane {s : State} {lane : BitVec 3}
    (listens : s.portListens = true) (init : s.init = none) (hn : 6 ≤ lane.toNat)
    (op : LaneId → State → State) :
    hostWord .write Reg.laneCmd.index (laneCommand op lane) s =
      (s.wordAt .write 0x03).report .badField 0x03 := by
  rw [hostWord_laneCommand listens init, LaneId.ofCode_of_le hn]
  rfl

/-! ### SPLICE (R90) -/

section
variable {n : LaneId} {s : State}

theorem spliceLane_inactive (h : (s.lane n).queue.active = none) :
    spliceLane n s = s.report .nothingActive 0x03 := by
  simp only [spliceLane, h]
  rfl

theorem spliceLane_alone (active : (s.lane n).queue.active ≠ none)
    (pending : (s.lane n).queue.pending = []) :
    spliceLane n s = s.report .nothingToSplice 0x03 := by
  obtain ⟨a, ha⟩ := Option.ne_none_iff_exists'.1 active
  simp only [spliceLane, ha, pending]
  rfl

/-- With a launch on each side, SPLICE asks whether the one behind starts IMMEDIATE (R90). -/
theorem spliceLane_next {d : Descriptor} {rest : List Descriptor}
    (active : (s.lane n).queue.active ≠ none) (pending : (s.lane n).queue.pending = d :: rest) :
    spliceLane n s =
      if d.start = .immediate then
        (s.report .ok 0x03).setLane n { s.lane n with splicePending := true }
      else s.report .badSplice 0x03 := by
  obtain ⟨a, ha⟩ := Option.ne_none_iff_exists'.1 active
  simp only [spliceLane, ha, pending]
  rfl

end

/-- Settles O35: the command at the lane named, by its active and its pending descriptors. -/
theorem spliceCommand : Obligations.SpliceCommand := by
  refine ⟨fun lane s listens init hn =>
    congrArg Host.Outcome.next (hostWord_laneCommand_noLane listens init hn spliceLane), ?_⟩
  intro lane n s listens init hn q s1
  have event : exec (.splice lane) s = .next (spliceLane n s1) :=
    congrArg Host.Outcome.next (hostWord_laneCommand_lane listens init hn spliceLane)
  refine ⟨fun none => ?_, fun active alone => ?_, fun d rest active next other => ?_,
    fun d rest active next immediate => ?_⟩
  · rw [event, spliceLane_inactive (s := s1) none]
  · rw [event, spliceLane_alone (s := s1) active alone]
  · rw [event, spliceLane_next (s := s1) active next, if_neg other]
  · rw [event, spliceLane_next (s := s1) active next, if_pos immediate]
    rfl

/-! ### The staged descriptor (R178) -/

theorem groupOf_eq_none (c : BitVec 3) : groupOf c = none ↔ 2 ≤ c.toNat := by decide +revert
theorem lineOf_eq_none (c : BitVec 3) : lineOf c = none ↔ 4 ≤ c.toNat := by decide +revert
theorem restLevelOf_eq_none (c : BitVec 3) : restLevelOf c = none ↔ 4 ≤ c.toNat := by
  decide +revert

theorem groupOf_eq_some (c : BitVec 3) (g : GroupId) :
    groupOf c = some g ↔ c = BitVec.ofNat 3 g.num := by
  cases g <;> decide +revert

theorem lineOf_eq_some (c : BitVec 3) (i : LineId) :
    lineOf c = some i ↔ c = BitVec.ofNat 3 i.num := by
  cases i <;> decide +revert

/-- A rest level has one code. -/
theorem restLevelOf_inj {a b : BitVec 3} (h : restLevelOf a = restLevelOf b)
    (level : (restLevelOf b).isSome = true) : a = b := by
  decide +revert

section
variable {st : Staging}

theorem Staging.start_eq_immediate : st.start = some .immediate ↔ st.startCode = 0 := by
  unfold Staging.start
  split_ifs <;> simp_all

theorem Staging.start_eq_atTime {t : Time} :
    st.start = some (.atTime t) ↔ st.startCode = 1 ∧ t = st.time := by
  rw [eq_comm (a := t)]
  unfold Staging.start
  split_ifs <;> simp_all

theorem Staging.start_eq_onGroup {g : GroupId} :
    st.start = some (.onGroup g) ↔ st.startCode = 2 ∧ st.selector = BitVec.ofNat 3 g.num := by
  unfold Staging.start
  rw [← groupOf_eq_some]
  split_ifs <;> simp_all

theorem Staging.start_eq_onTrigger {i : LineId} :
    st.start = some (.onTrigger i) ↔ st.startCode = 3 ∧ st.selector = BitVec.ofNat 3 i.num := by
  unfold Staging.start
  rw [← lineOf_eq_some]
  split_ifs <;> simp_all

theorem Staging.start_eq_none :
    st.start = none ↔
      4 ≤ st.startCode.toNat ∨ (st.startCode = 3 ∧ 4 ≤ st.selector.toNat) ∨
        (st.startCode = 2 ∧ 2 ≤ st.selector.toNat) := by
  have undefinedCode (k : BitVec 3) : 4 ≤ k.toNat ↔ k ≠ 0 ∧ k ≠ 1 ∧ k ≠ 2 ∧ k ≠ 3 := by
    decide +revert
  rw [← groupOf_eq_none, ← lineOf_eq_none st.selector, undefinedCode]
  unfold Staging.start
  split_ifs <;> simp_all

/-- The staging registers hold a descriptor exactly where their codes name its start and its rest
level (R178). -/
theorem Staging.holds_iff {d : Descriptor} :
    st.Holds d ↔ st.start = some d.start ∧ restLevelOf st.restCode = some d.rest ∧
      d = ⟨st.entry, d.start, st.passes, d.rest, st.tag⟩ := by
  obtain ⟨entry, start, passes, rest, tag⟩ := d
  refine ⟨fun ⟨hentry, hpasses, htag, hrest, hstart⟩ => ⟨?_, ?_, ?_⟩,
    fun ⟨hstart, hrest, hfields⟩ => ?_⟩
  · cases start with
    | immediate => exact start_eq_immediate.2 hstart
    | atTime t => exact start_eq_atTime.2 hstart
    | onGroup g => exact start_eq_onGroup.2 hstart
    | onTrigger i => exact start_eq_onTrigger.2 hstart
  · unfold Staging.restCode
    rw [hrest]
    cases rest <;> rfl
  · exact congr (congrArg (fun e p => Descriptor.mk e start p rest tag) hentry) hpasses |>.trans
      (congrArg _ htag)
  · obtain ⟨hentry, -, hpasses, -, htag⟩ := Descriptor.mk.inj hfields
    refine ⟨hentry, hpasses, htag, restLevelOf_inj (hrest.trans ?_) ?_, ?_⟩
    · cases rest <;> rfl
    · cases rest <;> rfl
    · cases start with
      | immediate => exact start_eq_immediate.1 hstart
      | atTime t => exact start_eq_atTime.1 hstart
      | onGroup g => exact start_eq_onGroup.1 hstart
      | onTrigger i => exact start_eq_onTrigger.1 hstart

end

/-! ### SUBMIT (R76, R77) -/

section
variable {n : LaneId} {s : State}

theorem checkSubmit_faulted (h : (s.lane n).state = .faulted) :
    checkSubmit n s = .error .laneFaulted := if_pos h

theorem checkSubmit_full (ready : (s.lane n).state ≠ .faulted)
    (full : 4 ≤ (s.lane n).queue.slots) : checkSubmit n s = .error .queueFull :=
  (if_neg ready).trans (if_pos full)

/-- A code of the staged descriptor names nothing, or it names a group the lane is no member of
(checks 4 to 7 of R76). -/
def State.stagedBad (s : State) (n : LaneId) : Prop :=
  s.staging.start = none ∨ restLevelOf s.staging.restCode = none ∨
    ∃ g, s.staging.start = some (.onGroup g) ∧ LaneSet.has (s.group g).members n = false

theorem checkSubmit_bad (ready : (s.lane n).state ≠ .faulted) (room : (s.lane n).queue.slots < 4)
    (bad : s.stagedBad n) : checkSubmit n s = .error .badField := by
  unfold checkSubmit
  rw [if_neg ready, if_neg (Nat.not_le.2 room)]
  rcases bad with start | rest | ⟨g, start, outside⟩
  · rw [start]
  · rw [rest]
    rcases s.staging.start with _ | _ | _ | _ | _ <;> rfl
  · rw [start]
    cases restLevelOf s.staging.restCode with
    | none => rfl
    | some rest => exact if_neg (Bool.eq_false_iff.1 outside)

/-- Past every check SUBMIT has the descriptor the staging registers hold. -/
theorem checkSubmit_holds {d : Descriptor} (ready : (s.lane n).state ≠ .faulted)
    (room : (s.lane n).queue.slots < 4) (staged : s.staging.Holds d)
    (member : ∀ g, d.start = .onGroup g → LaneSet.has (s.group g).members n = true) :
    checkSubmit n s = .ok d := by
  obtain ⟨start, rest, fields⟩ := Staging.holds_iff.1 staged
  unfold checkSubmit
  rw [if_neg ready, if_neg (Nat.not_le.2 room), start, rest]
  cases hd : d.start with
  | onGroup g =>
    refine (if_pos (member g hd)).trans ?_
    rw [← hd, ← fields]
  | immediate | atTime _ | onTrigger _ =>
    dsimp only
    rw [← hd, ← fields]

/-- A staged descriptor that is not bad is held, and its group, if it names one, has the lane. -/
theorem State.holds_of_not_stagedBad (good : ¬ s.stagedBad n) :
    ∃ d, s.staging.Holds d ∧
      ∀ g, d.start = .onGroup g → LaneSet.has (s.group g).members n = true := by
  obtain ⟨start, rest, outside⟩ := not_or.1 good |>.imp_right not_or.1
  obtain ⟨c, hc⟩ := Option.ne_none_iff_exists'.1 start
  obtain ⟨r, hr⟩ := Option.ne_none_iff_exists'.1 rest
  refine ⟨⟨s.staging.entry, c, s.staging.passes, r, s.staging.tag⟩,
    Staging.holds_iff.2 ⟨hc, hr, rfl⟩, fun g hg => ?_⟩
  exact Bool.eq_true_of_not_eq_false fun h => outside ⟨g, hc.trans (congrArg some hg), h⟩

/-- When a staged descriptor is bad, by its codes. -/
theorem State.stagedBad_iff :
    s.stagedBad n ↔
      4 ≤ s.staging.startCode.toNat ∨ 4 ≤ s.staging.restCode.toNat ∨
      (s.staging.startCode = 3 ∧ 4 ≤ s.staging.selector.toNat) ∨
      (s.staging.startCode = 2 ∧ (2 ≤ s.staging.selector.toNat ∨
        ∃ g : GroupId, s.staging.selector.toNat = g.num ∧
          LaneSet.has (s.group g).members n = false)) := by
  have named (c : BitVec 3) (g : GroupId) : c = BitVec.ofNat 3 g.num ↔ c.toNat = g.num := by
    cases g <;> decide +revert
  unfold State.stagedBad
  simp only [Staging.start_eq_none, restLevelOf_eq_none, Staging.start_eq_onGroup, named]
  constructor
  · rintro ((h | h | ⟨two, h⟩) | h | ⟨g, ⟨two, hg⟩, outside⟩)
    · exact .inl h
    · exact .inr (.inr (.inl h))
    · exact .inr (.inr (.inr ⟨two, .inl h⟩))
    · exact .inr (.inl h)
    · exact .inr (.inr (.inr ⟨two, .inr ⟨g, hg, outside⟩⟩))
  · rintro (h | h | h | ⟨two, h | ⟨g, hg, outside⟩⟩)
    · exact .inl (.inl h)
    · exact .inr (.inl h)
    · exact .inl (.inr (.inl h))
    · exact .inl (.inr (.inr ⟨two, h⟩))
    · exact .inr (.inr ⟨g, ⟨two, hg⟩, outside⟩)

theorem submitTo_refused {r : Result} (h : checkSubmit n s = .error r) :
    submitTo n s = s.report r 0x03 := by
  rw [submitTo, h]
  rfl

/-- At a lane that is not IDLE the descriptor joins the queue (R77). -/
theorem submitTo_queues {d : Descriptor} (checked : checkSubmit n s = .ok d)
    (busy : (s.lane n).state ≠ .idle) :
    submitTo n s =
      (s.setLane n
        { s.lane n with
          queue := { (s.lane n).queue with pending := (s.lane n).queue.pending ++ [d] } }).report
        .ok 0x03 := by
  rw [submitTo, checked]
  exact if_neg busy

end

/-- Settles O31: the checks in their order, then the descriptor at the back of the queue. -/
theorem submitChecksAndQueues : Obligations.SubmitChecksAndQueues := by
  refine ⟨fun lane s listens init hn =>
    congrArg Host.Outcome.next (hostWord_laneCommand_noLane listens init hn submitTo), ?_⟩
  intro lane n s listens init hn l start selector bad
  let w : State := s.wordAt .write 0x03
  have event : exec (.submit lane) s = .next (submitTo n w) :=
    congrArg Host.Outcome.next (hostWord_laneCommand_lane listens init hn submitTo)
  have bad_iff : w.stagedBad n ↔ bad := State.stagedBad_iff
  refine ⟨fun faulted => ?_, fun ready full => ?_, fun ready room hbad => ?_,
    fun busy room good => ?_⟩
  · rw [event, submitTo_refused (checkSubmit_faulted (s := w) faulted)]
  · rw [event, submitTo_refused (checkSubmit_full (s := w) ready full)]
  · rw [event, submitTo_refused (checkSubmit_bad (s := w) ready room (bad_iff.2 hbad))]
  · have ready : l.state ≠ .faulted := by rcases busy with h | h | h <;> rw [h] <;> exact nofun
    have behind : l.state ≠ .idle := by rcases busy with h | h | h <;> rw [h] <;> exact nofun
    obtain ⟨d, staged, member⟩ := State.holds_of_not_stagedBad fun h => good (bad_iff.1 h)
    refine ⟨d, staged, ?_⟩
    rw [event, submitTo_queues (checkSubmit_holds (s := w) ready room staged member) behind]
    rfl

/-! ### Activation between boundaries (R78 to R82) -/

theorem activate_none {n : LaneId} {s : State} (h : (s.lane n).queue.pending = []) (b : Bool) :
    activate n b s = (s, []) := by
  simp only [activate, h]

theorem arrive_between_work (g : GroupId) (n : LaneId) (s : State) :
    (arrive g n false s).2 = [] := by
  unfold arrive
  dsimp only
  split <;> rfl

theorem applyStart_between_work (n : LaneId) (c : StartCond) (s : State) :
    (applyStart n c false s).2 = [] := by
  unfold applyStart
  cases c with
  | immediate | onTrigger _ => rfl
  | atTime t =>
    dsimp only
    split <;> rfl
  | onGroup g =>
    dsimp only
    split
    · rfl
    · split
      · rfl
      · exact arrive_between_work g n s

/-- An activation between boundaries leaves no work. -/
theorem activate_between_work (n : LaneId) (s : State) : (activate n false s).2 = [] := by
  unfold activate
  dsimp only
  split
  · rfl
  · exact applyStart_between_work ..

theorem activate_between {n : LaneId} {s : State} {d : Descriptor} {rest : List Descriptor}
    (h : (s.lane n).queue.pending = d :: rest) :
    s.Activates n d rest false (activate n false s).1 [] := by
  rw [← activate_between_work n s]
  exact activate_activates h false

/-- A lane that has activated descriptor d between boundaries, its start met or not (R78 to R81). -/
def Lane.activated (l : Lane) (d : Descriptor) (rest : List Descriptor) (met : Bool) : Lane :=
  { l.armedOn d rest with
    queue := { l.queue with active := some ⟨d, met, 0⟩, pending := rest } }

/-- A start that names no group is met by its activation at the time given (R79 to R81). -/
def StartCond.metAt (c : StartCond) (now : Time) : Bool :=
  match c with
  | .immediate => true
  | .atTime t => !liesAhead t now
  | .onGroup _ | .onTrigger _ => false

theorem StartCond.metAt_atTime (t now : Time) :
    (StartCond.atTime t).metAt now = decide ((t - now).toNat = 0 ∨ 2 ^ 31 ≤ (t - now).toNat) := by
  change (!decide _) = _
  rw [← decide_not, decide_eq_decide]
  omega

section
variable {n : LaneId} {s u : State} {d : Descriptor} {rest : List Descriptor}

theorem activate_ungrouped (h : (s.lane n).queue.pending = d :: rest)
    (ungrouped : ∀ g, d.start ≠ .onGroup g) :
    (activate n false s).1 =
      s.setLane n ((s.lane n).activated d rest (d.start.metAt s.tb.time)) := by
  have activates := activate_activates h false
  unfold State.Activates at activates
  cases hd : d.start with
  | onGroup g => exact absurd hd (ungrouped g)
  | immediate | onTrigger _ =>
    rw [hd] at activates
    exact activates.1
  | atTime t =>
    rw [hd] at activates
    dsimp only at activates
    rw [StartCond.metAt_atTime]
    split at activates
    · next ahead =>
      rw [decide_eq_false (by omega)]
      exact activates.1
    · next reached =>
      rw [decide_eq_true (by omega)]
      exact activates.1

/-- An event that last wrote its lane, calling for no carrier before or after it, settles as it
stands. -/
theorem settle_uncalled {x : Lane} (before : (s.lane n).called = none) (after : x.called = none)
    (lanes : u.lanes = s.lanes ∨ ∃ y, u.lanes = s.lanes.set n y)
    (deferral : u.evq.deferral = s.evq.deferral ∨ ∃ e, u.evq.deferral = s.evq.deferral ++ [e]) :
    settle s (u.setLane n x) = u.setLane n x := by
  rw [settle_setLane lanes deferral, judgeSegment_same (before.trans after.symm)]

theorem Lane.activated_called (l : Lane) (met : Bool) : (l.activated d rest met).called = none :=
  Lane.called_off (.inr (.inl rfl))

end

/-- Settles O32: the descriptor staged passes the checks, and its activation names no group. -/
theorem submitArmsAnIdleLane : Obligations.SubmitArmsAnIdleLane := by
  intro lane n d s listens init hn idle empty room staged ungrouped
  have vlane : (s.submitted n d).lane n = _ := s.submitted_lane n d
  have pending : ((s.submitted n d).lane n).queue.pending = [d] := by
    rw [vlane, empty]
    rfl
  have checked : checkSubmit n (s.wordAt .write 0x03) = .ok d :=
    checkSubmit_holds (s := s.wordAt .write 0x03) (fun h => nomatch idle.symm.trans h) room
      staged fun g hg => absurd hg (ungrouped g)
  rw [exec_submit_idle listens init hn idle checked, activate_ungrouped pending ungrouped,
    settle_uncalled (u := s.submitted n d) (Lane.called_off (.inl idle)) (Lane.activated_called ..)
      (.inr ⟨_, rfl⟩) (.inl rfl), vlane]
  refine congrArg Host.Outcome.next ((State.setLane_setLane ..).trans
    (congrArg (fun met => ((s.wordAt .write 0x03).setLane n
      ((s.lane n).activated d [] met)).report .ok 0x03) ?_))
  cases d.start with
  | atTime t => exact StartCond.metAt_atTime ..
  | immediate | onGroup _ | onTrigger _ => rfl

/-! ### CLEAR_FAULT (R94) -/

section
variable {n : LaneId} {s : State}

theorem clearFaultOf_other (h : (s.lane n).state ≠ .faulted) :
    clearFaultOf n s = s.report .notFaulted 0x03 := if_neg h

theorem clearFaultOf_faulted (h : (s.lane n).state = .faulted) :
    clearFaultOf n s =
      settle s (activate n false ((s.report .ok 0x03).setLane n
        { s.lane n with state := .idle, cause := none, rest := .cfgIdle })).1 := if_pos h

end

/-- Settles O37: a FAULTED lane comes to IDLE, and activates what waits behind it. -/
theorem clearFaultCommand : Obligations.ClearFaultCommand := by
  refine ⟨fun lane s listens init hn =>
    congrArg Host.Outcome.next (hostWord_laneCommand_noLane listens init hn clearFaultOf), ?_⟩
  intro lane n s listens init hn l s1
  let w : State := s.wordAt .write 0x03
  let cleared : State := s1.setLane n { l with state := .idle, cause := none, rest := .cfgIdle }
  have clane : cleared.lane n = { l with state := .idle, cause := none, rest := .cfgIdle } :=
    State.lane_setLane_self ..
  have event : exec (.clearFault lane) s = .next (clearFaultOf n w) :=
    congrArg Host.Outcome.next (hostWord_laneCommand_lane listens init hn clearFaultOf)
  have clears (faulted : l.state = .faulted) :
      exec (.clearFault lane) s = .next (settle s (activate n false cleared).1) :=
    event.trans (congrArg Host.Outcome.next (clearFaultOf_faulted (s := w) faulted))
  have waits {ds : List Descriptor} (h : l.queue.pending = ds) :
      (cleared.lane n).queue.pending = ds := by
    rw [clane]
    exact h
  refine ⟨fun other => ?_, fun faulted none => ?_, fun d rest faulted next immediate => ?_,
    fun d rest faulted next => ⟨_, activate_between (waits next), clears faulted⟩⟩
  · rw [event, clearFaultOf_other (s := w) other]
  · rw [clears faulted, activate_none (waits none)]
    exact congrArg Host.Outcome.next (settle_uncalled (u := s1)
      (Lane.called_off (.inr (.inr faulted))) (Lane.called_off (.inl rfl)) (.inl rfl) (.inl rfl))
  · rw [clears faulted, activate_ungrouped (waits next) (immediate ▸ nofun),
      settle_uncalled (u := cleared) (Lane.called_off (.inr (.inr faulted)))
        (Lane.activated_called ..) (.inr ⟨_, rfl⟩) (.inl rfl), clane, immediate]
    exact congrArg Host.Outcome.next (State.setLane_setLane ..)

/-! ### Lane work neither reads nor writes CMD_RESULT (R170) -/

section
variable (r : Result) (i : Index)

theorem offerInfo_report (b : EventBody) (s : State) :
    offerInfo b (s.report r i) = (offerInfo b s).report r i := by
  rcases offerInfo_cases b s with ⟨room, h⟩ | ⟨full, h⟩ <;> rw [h]
  · exact if_pos room
  · exact if_neg (Bool.eq_false_iff.1 full)

theorem postTerminal_report (n : LaneId) (d : Descriptor) (b : EventBody) (s : State) :
    postTerminal n d b (s.report r i) = (postTerminal n d b s).report r i := by
  rcases postTerminal_cases n d b s with ⟨room, h⟩ | ⟨full, h⟩ <;> rw [h]
  · exact if_pos room
  · exact if_neg (Bool.eq_false_iff.1 full)

theorem enterFault_report (c : FaultCause) (n : LaneId) (s : State) :
    enterFault c n (s.report r i) = (enterFault c n s).report r i := by
  unfold enterFault
  rw [State.lane_report]
  dsimp only
  cases (s.lane n).queue.active with
  | none => rfl
  | some a => exact postTerminal_report r i n a.desc _ (s.setLane n ((s.lane n).faulted c))

theorem faultLane_report (c : FaultCause) (n : LaneId) (s : State) :
    faultLane c n (s.report r i) = (faultLane c n s).report r i := by
  have broken : breakBarriers [n] (depart n (s.report r i)) =
      ((breakBarriers [n] (depart n s)).1.report r i, (breakBarriers [n] (depart n s)).2) := rfl
  unfold faultLane
  rw [broken]
  dsimp only
  rw [enterFault_report]
  exact List.foldl_hom (State.report · r i) fun t m => enterFault_report ..

theorem releaseGroup_report (g : GroupId) (b : Bool) (s : State) :
    (releaseGroup g b (s.report r i)).1 = (releaseGroup g b s).1.report r i := by
  have offered := offerInfo_report r i
    (.groupReleased g (s.group g).arrived ((s.group g).count + 1))
    (s.setGroup g { s.group g with arrived := 0, count := (s.group g).count + 1 })
  unfold releaseGroup
  cases b with
  | true => exact offered
  | false =>
    exact congrArg (fun u : State =>
      { u with
        lanes := PerLane.build fun m =>
          if LaneSet.has (s.group g).arrived m then (u.lane m).releaseBetween else u.lane m })
      offered

theorem arrive_report (g : GroupId) (n : LaneId) (b : Bool) (s : State) :
    (arrive g n b (s.report r i)).1 = (arrive g n b s).1.report r i := by
  have completes_same : completes (s.report r i) g n = completes s g n := rfl
  unfold arrive
  rw [completes_same]
  dsimp only
  split
  · exact releaseGroup_report r i g b
      (s.setGroup g { s.group g with arrived := LaneSet.insert (s.group g).arrived n })
  · rfl

theorem startNow_report (n : LaneId) (b : Bool) (s : State) :
    (startNow n b (s.report r i)).1 = (startNow n b s).1.report r i := by
  cases b <;> rfl

theorem applyStart_report (n : LaneId) (c : StartCond) (b : Bool) (s : State) :
    (applyStart n c b (s.report r i)).1 = (applyStart n c b s).1.report r i := by
  have faulted_same (g : GroupId) : memberFaulted (s.report r i) g = memberFaulted s g := rfl
  unfold applyStart
  cases c with
  | immediate => exact startNow_report r i n b s
  | onTrigger _ => rfl
  | atTime t =>
    rw [State.report_tb]
    dsimp only
    split
    · rfl
    · exact startNow_report r i n b s
  | onGroup g =>
    dsimp only
    rw [State.group_report, faulted_same]
    split
    · exact faultLane_report r i .notMember n s
    · split
      · exact faultLane_report r i .barrierBroken n s
      · exact arrive_report r i g n b s

theorem activate_report (n : LaneId) (b : Bool) (s : State) :
    (activate n b (s.report r i)).1 = (activate n b s).1.report r i := by
  unfold activate
  rw [State.lane_report]
  dsimp only
  cases (s.lane n).queue.pending with
  | nil => rfl
  | cons d rest =>
    exact applyStart_report r i n d.start b (s.setLane n ((s.lane n).armedOn d rest))

theorem State.retiring_report (n : LaneId) (a : Launch) (e : Ending) (s : State) :
    (s.report r i).retiring n a e = (s.retiring n a e).report r i :=
  postTerminal_report r i n a.desc _ (s.setLane n ((s.lane n).retired a.desc.rest))

theorem retire_report (n : LaneId) (e : Ending) (b : Bool) (s : State) :
    (retire n e b (s.report r i)).1 = (retire n e b s).1.report r i := by
  cases active : (s.lane n).queue.active with
  | none =>
    have idle (t : State) (h : (t.lane n).queue.active = none) : retire n e b t = (t, []) := by
      simp only [retire, h]
    rw [idle s active, idle (s.report r i) active]
  | some a =>
    cases pending : (s.lane n).queue.pending with
    | nil =>
      rw [retire_last active pending, retire_last (s := s.report r i) active pending,
        State.retiring_report]
      rfl
    | cons d rest =>
      rw [retire_next active pending, retire_next (s := s.report r i) active pending,
        State.retiring_report, activate_report]

end

/-! ### STOP_AT_END (R89) -/

section
variable {n : LaneId} {s : State}

theorem stopAtEnd_inactive (h : (s.lane n).state = .idle ∨ (s.lane n).state = .faulted) :
    stopAtEnd n s = s.report .nothingActive 0x03 := by
  rcases h with h | h <;> simp only [stopAtEnd, h] <;> rfl

theorem stopAtEnd_pends (h : (s.lane n).state = .running ∨ (s.lane n).state = .waiting) :
    stopAtEnd n s =
      (s.report .ok 0x03).setLane n { s.lane n with stopPending := true } := by
  rcases h with h | h <;> simp only [stopAtEnd, h] <;> rfl

/-- An ARMED launch departs any group and retires STOPPED, at once (R89, R119). -/
theorem stopAtEnd_armed (h : (s.lane n).state = .armed) :
    stopAtEnd n s =
      settle s (retire n .stopped false (depart n (s.report .ok 0x03))).1 := by
  have stopped := retire_report .ok 0x03 n .stopped false (depart n s)
  simp only [stopAtEnd, h]
  exact congrArg (settle s) stopped.symm

/-- A launch stopped in ARMED carries no HOLDOVER in its record (R95; log 14). -/
theorem doneFields_stopped {l : Lane} (h : l.state = .armed) (a : Launch) :
    doneFields l a .stopped = ⟨l.passesDone, true, false, false, a.lateness⟩ := by
  have unstarted : decide (l.state ≠ .armed) = false := decide_eq_false (not_not_intro h)
  rw [doneFields, unstarted, Bool.and_false]
  rfl

/-- A retirement changes its own lane alone, and defers one record at most. -/
theorem State.retiring_frame (s : State) (n : LaneId) (a : Launch) (e : Ending) :
    (∃ y, (s.retiring n a e).lanes = s.lanes.set n y) ∧
      ((s.retiring n a e).evq.deferral = s.evq.deferral ∨
        ∃ x, (s.retiring n a e).evq.deferral = s.evq.deferral ++ [x]) := by
  obtain ⟨u, q, posted, lanes, -, -, deferral⟩ := postTerminal_setLane n a.desc
    (.done n a.desc.tag (doneFields (s.lane n) a e)) s ((s.lane n).retired a.desc.rest).queue
  unfold State.retiring
  rw [posted _ rfl]
  exact ⟨⟨_, congrArg (PerLane.set · n _) lanes⟩, deferral⟩

theorem State.retiring_ownDue (s : State) (n : LaneId) (a : Launch) (e : Ending) :
    ((s.retiring n a e).lane n).ownDue = (s.lane n).ownDue := by
  unfold State.retiring
  obtain ⟨q, posted⟩ := postTerminal_lane n a.desc
    (.done n a.desc.tag (doneFields (s.lane n) a e)) (s.setLane n ((s.lane n).retired a.desc.rest)) n
  rw [posted, State.lane_setLane_self]
  rfl

end

/-- Settles O34: by the lane's state; an ARMED launch retires, and what waits is activated. -/
theorem stopAtEndCommand : Obligations.StopAtEndCommand := by
  refine ⟨fun lane s listens init hn =>
    congrArg Host.Outcome.next (hostWord_laneCommand_noLane listens init hn stopAtEnd), ?_⟩
  intro lane n s listens init hn l s1
  let w : State := s.wordAt .write 0x03
  have event : exec (.stopAtEnd lane) s = .next (stopAtEnd n w) :=
    congrArg Host.Outcome.next (hostWord_laneCommand_lane listens init hn stopAtEnd)
  refine ⟨fun inactive => ?_, fun running => ?_, ?_⟩
  · rw [event, stopAtEnd_inactive (s := w) inactive]
  · rw [event, stopAtEnd_pends (s := w) running]
    rfl
  · intro a armed active out s2
    let left : State := depart n s1
    have stops : exec (.stopAtEnd lane) s = .next (settle s (retire n .stopped false left).1) :=
      event.trans (congrArg Host.Outcome.next (stopAtEnd_armed (s := w) armed))
    have retired : left.retiring n a .stopped = s2 := by
      have rest : resolveRest a.desc.rest l.level = out.rest := by
        unfold resolveRest
        dsimp only [out]
        rcases a.desc.rest with _ | _ | _ | _ <;> rcases l.level with _ | (_ | _ | _) <;> rfl
      have lane : (left.lane n).retired a.desc.rest = out :=
        congrArg (fun r : RestInForce => { out with rest := r }) rest
      rw [State.retiring, lane, doneFields_stopped (l := left.lane n) armed]
      rfl
    have before : l.called = none := Lane.called_off (.inr (.inl armed))
    obtain ⟨lanes, deferral⟩ := left.retiring_frame n a .stopped
    have due := left.retiring_ownDue n a .stopped
    rw [retired] at lanes deferral due
    have next {d : Descriptor} {rest : List Descriptor} (h : l.queue.pending = d :: rest) :
        (s2.lane n).queue.pending = d :: rest ∧
          exec (.stopAtEnd lane) s = .next (settle s (activate n false s2).1) := by
      rw [← retired, State.retiring_pending]
      exact ⟨h, stops.trans (by rw [retire_next (s := left) active h])⟩
    refine ⟨fun none => ?_, fun d rest waits immediate => ?_, fun d rest waits => ?_⟩
    · rw [stops, retire_last (s := left) active none, retired]
      exact congrArg Host.Outcome.next
        (settle_uncalled before (Lane.called_off (.inl rfl)) (.inr lanes) deferral)
    · obtain ⟨pending, activates⟩ := next waits
      rw [activates, activate_ungrouped pending (immediate ▸ nofun),
        settle_uncalled before (Lane.activated_called ..) (.inr lanes) deferral, immediate]
      exact congrArg (fun due : Bool => Host.Outcome.next
        (s2.setLane n { (s2.lane n).activated d rest true with sinceBoundary := due })) due
    · obtain ⟨pending, activates⟩ := next waits
      exact ⟨_, activate_between pending, activates⟩

/-! ### Terminal records of one lane offered in a row (R96, R97, R149, R152) -/

/-- The terminal records of launches of lane n are offered in the order given (R93, R96). -/
def State.postEach (s : State) (n : LaneId) (rs : List (Descriptor × EventBody)) : State :=
  rs.foldl (fun u r => postTerminal n r.1 r.2 u) s

theorem State.postEach_append (s : State) (n : LaneId) (as bs : List (Descriptor × EventBody)) :
    s.postEach n (as ++ bs) = (s.postEach n as).postEach n bs := List.foldl_append

/-- A lane with more AWAIT_POST slots behind those it has. -/
def Lane.withSlots (l : Lane) (more : List HeldSlot) : Lane :=
  { l with queue := { l.queue with awaiting := l.queue.awaiting ++ more } }

theorem Lane.withSlots_nil (l : Lane) : l.withSlots [] = l := by
  unfold Lane.withSlots
  rw [List.append_nil]

theorem Lane.withHeld_withSlots (l : Lane) (h : HeldSlot) (more : List HeldSlot) :
    (l.withHeld h).withSlots more = l.withSlots (h :: more) := by
  unfold Lane.withHeld Lane.withSlots
  dsimp only
  rw [List.append_assoc]
  rfl

theorem State.postEach_report (s : State) (n : LaneId) (rs : List (Descriptor × EventBody))
    (r : Result) (i : Index) : (s.report r i).postEach n rs = (s.postEach n rs).report r i :=
  List.foldl_hom (State.report · r i) fun t x => postTerminal_report r i n x.1 x.2 t

theorem State.lane_withEvq_setLane_self (s : State) (n : LaneId) (l : Lane) (q : EventQueue) :
    State.lane { s.setLane n l with evq := q } n = l := State.lane_setLane_self ..

/-- Offers of one lane's records change its AWAIT_POST slots and the Event Queue alone: each record
deferred has its slot at the back and its entry at the back. -/
theorem State.postEach_eq (n : LaneId) (rs : List (Descriptor × EventBody)) (s : State) :
    ∃ more q,
      s.postEach n rs = { s.setLane n ((s.lane n).withSlots more) with evq := q } ∧
        q.deferral = s.evq.deferral ++ more.map fun _ => .lane n := by
  induction rs generalizing s with
  | nil =>
    refine ⟨[], s.evq, ?_, (List.append_nil _).symm⟩
    rw [Lane.withSlots_nil, State.setLane_lane]
    rfl
  | cons r rest ih =>
    obtain ⟨more, q, posted, deferral⟩ := ih (postTerminal n r.1 r.2 s)
    have first : s.postEach n (r :: rest) = (postTerminal n r.1 r.2 s).postEach n rest := rfl
    rw [first, posted]
    rcases postTerminal_cases n r.1 r.2 s with ⟨-, h⟩ | ⟨-, h⟩ <;> rw [h] at deferral ⊢
    · exact ⟨more, q, rfl, deferral⟩
    · refine ⟨⟨r.1, ⟨s.tb.time, 0, r.2⟩⟩ :: more, q, ?_, ?_⟩
      · rw [State.lane_withEvq_setLane_self, Lane.withHeld_withSlots]
        exact congrArg (fun v : PerLane Lane => { s with lanes := v, evq := q })
          (PerLane.set_set ..)
      · rw [deferral, List.map_cons, List.append_assoc]
        rfl

/-- With room for every record each is placed, behind the ones before it (R149). -/
theorem State.postEach_placed (n : LaneId) (rs : List (Descriptor × EventBody)) {s : State}
    (none : s.evq.deferral = []) (room : s.evq.placed.length + rs.length ≤ 32) :
    ∃ q, s.postEach n rs = { s with evq := q } ∧ q.deferral = [] ∧
      q.placed.map (fun r => (r.time, r.body)) =
        s.evq.placed.map (fun r => (r.time, r.body)) ++ rs.map fun r => (s.tb.time, r.2) := by
  induction rs generalizing s with
  | nil => exact ⟨s.evq, rfl, none, (List.append_nil _).symm⟩
  | cons r rest ih =>
    rw [List.length_cons] at room
    have places : s.evq.canPlace = true := (EventQueue.canPlace_iff _).2 ⟨by omega, none⟩
    let placed : State := { s with evq := s.evq.place ⟨s.tb.time, 0, r.2⟩ }
    have first : s.postEach n (r :: rest) = placed.postEach n rest :=
      congrArg (State.postEach · n rest) (if_pos places)
    have length : placed.evq.placed.length = s.evq.placed.length + 1 := List.length_append
    obtain ⟨q, posted, deferral, records⟩ := ih (s := placed) none (by omega)
    refine ⟨q, first.trans posted, deferral, records.trans ?_⟩
    rw [EventQueue.place_placed, List.map_append, List.append_assoc]
    rfl

/-! ### ABORT (R93, R110) -/

/-- The launches an ABORT ends at lane n, oldest first, each with its record (R93, R96). -/
def Lane.abortRecords (l : Lane) (n : LaneId) : List (Descriptor × EventBody) :=
  (l.queue.active.toList.map fun a =>
      (a.desc, .aborted n a.desc.tag l.passesDone .hostAbort l.stepAddr)) ++
    l.queue.pending.map fun d => (d, .aborted n d.tag 0 .flushed d.entry)

theorem flushPending_eq (n : LaneId) (ds : List Descriptor) (s : State) :
    flushPending n ds s =
      s.postEach n (ds.map fun d => (d, .aborted n d.tag 0 .flushed d.entry)) := by
  unfold flushPending State.postEach
  rw [List.foldl_map]

/-- ABORT empties the lane, and then offers the records of what it held. -/
theorem abortLane_eq (n : LaneId) (s : State) :
    abortLane n s =
      settle s ((((depart n s).setLane n (s.lane n).aborted).report .ok 0x03).postEach n
        ((s.lane n).abortRecords n)) := by
  rw [State.postEach_report, Lane.abortRecords, State.postEach_append, ← flushPending_eq]
  unfold abortLane
  dsimp only
  cases (s.lane n).queue.active <;> rfl

/-- An event that empties its lane and offers that lane's records settles as it stands. -/
theorem settle_postEach {s t : State} {n : LaneId} {x : Lane} (lanes : t.lanes = s.lanes.set n x)
    (called : x.called = none) (gate : x.gate = .closed) (deferral : t.evq.deferral = s.evq.deferral)
    (rs : List (Descriptor × EventBody)) : settle s (t.postEach n rs) = t.postEach n rs := by
  obtain ⟨more, q, posted, entries⟩ := t.postEach_eq n rs
  have own : t.lane n = x := (congrArg (PerLane.get · n) lanes).trans (PerLane.get_set_self ..)
  have lane (m : LaneId) :
      (t.postEach n rs).lane m = if m = n then x.withSlots more else s.lane m := by
    rw [posted, own]
    change ((t.lanes.set n _).get m) = _
    rw [lanes, PerLane.set_set]
    exact State.lane_setLane s n m _
  refine settle_eq_self (fun m => ?_) (added := more.map fun _ => .lane n) ?_ ?_
  · rw [lane]
    split
    · exact judgeSegment_closed called gate
    · exact judgeSegment_same rfl
  · rw [posted, ← deferral]
    exact entries
  · exact List.pairwise_map.2 (List.pairwise_of_forall fun _ _ => le_rfl)

/-- Settles O36: the lane emptied, and its records offered, oldest first. -/
theorem abortCommand : Obligations.AbortCommand := by
  refine ⟨fun lane s listens init hn =>
    congrArg Host.Outcome.next (hostWord_laneCommand_noLane listens init hn abortLane), ?_⟩
  intro lane n s listens init hn l mine launches cleared
  let w : State := s.wordAt .write 0x03
  let emptied : State :=
    { (w.report .ok 0x03).setLane n cleared with groups := s.groupsWithout n }
  have own : emptied.lane n = cleared := State.lane_setLane_self ..
  have records : l.abortRecords n = launches.zip mine := by
    rw [Lane.abortRecords, List.map_prod_left_eq_zip]
    dsimp only [launches, mine]
    cases l.queue.active <;> rfl
  have bodies : (l.abortRecords n).map Prod.snd = mine := by
    rw [Lane.abortRecords, List.map_append, List.map_map, List.map_map]
    dsimp only [mine]
    cases l.queue.active <;> rfl
  have event : exec (.abort lane) s = .next (emptied.postEach n (l.abortRecords n)) := by
    refine (congrArg Host.Outcome.next ((hostWord_laneCommand_lane listens init hn abortLane).trans
      (abortLane_eq n w))).trans (congrArg Host.Outcome.next ?_)
    exact settle_postEach (t := emptied) rfl (Lane.called_off (.inl rfl)) rfl rfl _
  obtain ⟨more, q, posted, -⟩ := emptied.postEach_eq n (l.abortRecords n)
  rw [own] at posted
  refine ⟨_, event, congrArg (emptied.postEach n) records, ?_⟩
  have placed := emptied.postEach_placed n (l.abortRecords n)
  rw [posted] at placed ⊢
  refine ⟨rfl, ⟨more, State.lane_setLane_self ..⟩, fun m hm => ?_, rfl, rfl, rfl, rfl, rfl, rfl,
    rfl, rfl, rfl, rfl, fun empty room => ?_⟩
  · exact (emptied.lane_setLane_ne _ hm).trans ((w.report .ok 0x03).lane_setLane_ne _ hm)
  · have count : (l.abortRecords n).length = mine.length := by rw [← bodies, List.length_map]
    obtain ⟨p, same, deferral, offered⟩ := placed empty (by rw [count]; exact room)
    obtain rfl : q = p := congrArg State.evq same
    have slots : (emptied.lane n).queue.awaiting = l.queue.awaiting := by rw [own]
    refine ⟨deferral, (congrArg (fun t : State => (t.lane n).queue.awaiting) same).trans slots,
      offered.trans ?_⟩
    rw [← bodies, List.map_map]
    rfl

end Sys2Proof.Machine
end

/-! ## Carrier generators: the register writes and the phase events (R99 to R109, R170) -/

section
namespace Sys2Proof.Machine

/-! ### What an enable, a disable and the end of a phase do to a lane -/

theorem Lane.openGate_eq (x : CarrierId) (l : Lane) :
    l.openGate x = { l with gate := if l.gate = .arming x then .open x else l.gate } := by
  unfold Lane.openGate
  split <;> rfl

theorem Lane.endTrail_eq (x : CarrierId) (l : Lane) :
    l.endTrail x = { l with trail := if l.trail = some x then none else l.trail } := by
  unfold Lane.endTrail
  split <;> rfl

theorem Lane.shutGate_eq (x : CarrierId) (l : Lane) :
    l.shutGate x =
      { l with gate := if l.gate = .open x ∨ l.gate = .arming x then .shut x else l.gate } := by
  unfold Lane.shutGate
  split <;> rfl

/-! ### The widths that apply at the start of a period (R103) -/

/-- The width pair of a generator's next period: the pending pair, and with none the pair in use
(R103). -/
def Carrier.nextPair (c : Carrier) : WidthPair :=
  match c.pair with
  | some p => p
  | none => c.inUse

theorem Carrier.getD_pair (c : Carrier) : c.pair.getD c.inUse = c.nextPair := by
  unfold Carrier.nextPair
  cases c.pair <;> rfl

section
variable {x : CarrierId} {w : Word} {s : State}

/-! ### The changes of a generator and of the lanes on it (R101, R102, R105) -/

theorem enableCarrier_eq (p : BitVec 4) :
    enableCarrier x p s =
      { s.setCarrier x
          { s.carrier x with
            enable := true, prescale := p, inUse := (s.carrier x).nextPair, pair := none
            phase := .high, count := 0, sub := 0 } with
        lanes := PerLane.build fun n =>
          { s.lane n with
            gate := if (s.lane n).gate = .arming x then .open x else (s.lane n).gate } } := by
  simp only [enableCarrier, Lane.openGate_eq, Carrier.getD_pair]

theorem disableCarrier_eq :
    disableCarrier x s =
      { s.setCarrier x
          { s.carrier x with enable := false, phase := .low, count := 0, sub := 0 } with
        lanes := PerLane.build fun n =>
          { s.lane n with
            gate :=
              if (s.lane n).gate = .open x ∨ (s.lane n).gate = .arming x then .shut x
              else (s.lane n).gate
            trail := if (s.lane n).trail = some x then none else (s.lane n).trail } } := by
  simp only [disableCarrier, Lane.shutGate_eq, Lane.endTrail_eq]

theorem endHighPhase_eq :
    endHighPhase x s =
      { s.setCarrier x { s.carrier x with phase := .low, count := 0, sub := 0 } with
        lanes := PerLane.build fun n =>
          { s.lane n with
            trail := if (s.lane n).trail = some x then none else (s.lane n).trail } } := by
  simp only [endHighPhase, Lane.endTrail_eq]

theorem endPeriod_eq :
    endPeriod x s =
      { s.setCarrier x
          { s.carrier x with
            inUse := (s.carrier x).nextPair, pair := none
            phase := .high, count := 0, sub := 0 } with
        lanes := PerLane.build fun n =>
          { s.lane n with
            gate := if (s.lane n).gate = .arming x then .open x else (s.lane n).gate } } := by
  simp only [endPeriod, Lane.openGate_eq, Carrier.getD_pair]

/-! ### CARx_CTRL, by the enable that stands and the word (R100, R101, R105) -/

theorem Reg.carCtrl_index (x : CarrierId) :
    (Reg.carCtrl x).index = match x with | .a => 0x1C | .b => 0x1E := by
  cases x <;> rfl

theorem exec_carCtrl_of_listens (h : s.portListens = true) :
    exec (.carCtrl x w) s = .next (writeCarCtrl x w (s.wordAt .write (Reg.carCtrl x).index)) :=
  congrArg Host.Outcome.next (hostWord_of_listens h ..)

theorem writeCarCtrl_busy (on : (s.carrier x).enable = true)
    (other : w.extractLsb' 4 4 ≠ (s.carrier x).prescale) :
    writeCarCtrl x w s = s.report .carrierBusy (Reg.carCtrl x).index :=
  (if_pos on).trans (if_neg other)

theorem writeCarCtrl_same (on : (s.carrier x).enable = true)
    (same : w.extractLsb' 4 4 = (s.carrier x).prescale) :
    writeCarCtrl x w s =
      (if w.getLsbD 0 then s else disableCarrier x s).report .ok (Reg.carCtrl x).index :=
  (if_pos on).trans (if_pos same)

theorem writeCarCtrl_disabled (off : (s.carrier x).enable = false) :
    writeCarCtrl x w s =
      (if w.getLsbD 0 then enableCarrier x (w.extractLsb' 4 4) s
        else s.setCarrier x { s.carrier x with prescale := w.extractLsb' 4 4 }).report .ok
          (Reg.carCtrl x).index :=
  if_neg (Bool.eq_false_iff.1 off)

theorem writeCarCtrl_runsOn (on : (s.carrier x).enable = true)
    (same : w.extractLsb' 4 4 = (s.carrier x).prescale) (keep : w.getLsbD 0 = true) :
    writeCarCtrl x w s = s.report .ok (Reg.carCtrl x).index := by
  rw [writeCarCtrl_same on same, if_pos keep]

theorem writeCarCtrl_disables (on : (s.carrier x).enable = true)
    (same : w.extractLsb' 4 4 = (s.carrier x).prescale) (stop : w.getLsbD 0 = false) :
    writeCarCtrl x w s = (disableCarrier x s).report .ok (Reg.carCtrl x).index := by
  rw [writeCarCtrl_same on same, if_neg (Bool.eq_false_iff.1 stop)]

theorem writeCarCtrl_stores (off : (s.carrier x).enable = false) (stay : w.getLsbD 0 = false) :
    writeCarCtrl x w s =
      (s.setCarrier x { s.carrier x with prescale := w.extractLsb' 4 4 }).report .ok
        (Reg.carCtrl x).index := by
  rw [writeCarCtrl_disabled off, if_neg (Bool.eq_false_iff.1 stay)]

theorem writeCarCtrl_enables (off : (s.carrier x).enable = false) (start : w.getLsbD 0 = true) :
    writeCarCtrl x w s =
      (enableCarrier x (w.extractLsb' 4 4) s).report .ok (Reg.carCtrl x).index := by
  rw [writeCarCtrl_disabled off, if_pos start]

/-! ### CARx_WIDTH (R103) -/

theorem Reg.carWidth_index (x : CarrierId) :
    (Reg.carWidth x).index = match x with | .a => 0x1D | .b => 0x1F := by
  cases x <;> rfl

theorem exec_carWidth_of_listens (h : s.portListens = true) :
    exec (.carWidth x w) s = .next (writeCarWidth x w (s.wordAt .write (Reg.carWidth x).index)) :=
  congrArg Host.Outcome.next (hostWord_of_listens h ..)

theorem writeCarWidth_refused (zero : w.extractLsb' 8 8 = 0 ∨ w.extractLsb' 0 8 = 0) :
    writeCarWidth x w s = s.report .badField (Reg.carWidth x).index :=
  if_pos zero

theorem writeCarWidth_pends (high : w.extractLsb' 8 8 ≠ 0) (low : w.extractLsb' 0 8 ≠ 0) :
    writeCarWidth x w s =
      (setPendingPair x ⟨w.extractLsb' 8 8, w.extractLsb' 0 8⟩ s).report .ok
        (Reg.carWidth x).index :=
  if_neg (not_or.2 ⟨high, low⟩)

/-! ### The phase events, in the phase they end and outside it (R102, log 12) -/

theorem exec_highPhaseEnd_ends (hr : s.port.rstnLow = false) (on : (s.carrier x).enable = true)
    (high : (s.carrier x).phase = .high) :
    exec (.highPhaseEnd x) s = .next (endHighPhase x s) :=
  congrArg _ ((unlessHeld_of_high hr _).trans (if_pos ⟨on, high⟩))

theorem exec_highPhaseEnd_idle (hr : s.port.rstnLow = false)
    (h : ¬ ((s.carrier x).enable = true ∧ (s.carrier x).phase = .high)) :
    exec (.highPhaseEnd x) s = .next s :=
  congrArg _ ((unlessHeld_of_high hr _).trans (if_neg h))

theorem exec_periodEnd_ends (hr : s.port.rstnLow = false) (on : (s.carrier x).enable = true)
    (low : (s.carrier x).phase = .low) :
    exec (.periodEnd x) s = .next (endPeriod x s) :=
  congrArg _ ((unlessHeld_of_high hr _).trans (if_pos ⟨on, low⟩))

theorem exec_periodEnd_idle (hr : s.port.rstnLow = false)
    (h : ¬ ((s.carrier x).enable = true ∧ (s.carrier x).phase = .low)) :
    exec (.periodEnd x) s = .next s :=
  congrArg _ ((unlessHeld_of_high hr _).trans (if_neg h))

/-- A generator that is off, or in a phase other than p, is not enabled in p. -/
theorem Carrier.not_enabled_in {c : Carrier} {p q : Level} (h : c.enable = false ∨ c.phase = q)
    (ne : q ≠ p) : ¬ (c.enable = true ∧ c.phase = p) := by
  rintro ⟨on, phase⟩
  rcases h with off | other
  · exact Bool.false_ne_true (off.symm.trans on)
  · exact ne (other.symm.trans phase)

end

/-- Settles O21: each write on the state behind its frame's advance, CARx_CTRL by the generator's
enable and the word's two fields, CARx_WIDTH by whether a width is zero. -/
theorem carrierRegisterWrites : Obligations.CarrierRegisterWrites := by
  constructor
  · intro x w s h i c
    have index : (Reg.carCtrl x).index = i := Reg.carCtrl_index x
    clear_value i
    subst index
    rw [exec_carCtrl_of_listens h]
    refine ⟨fun on other => ?_, fun on same keep => ?_, fun on same stop => ?_,
      fun off stay => ?_, fun off start => ?_⟩
    · exact congrArg _ (writeCarCtrl_busy on other)
    · exact congrArg _ (writeCarCtrl_runsOn on same keep)
    · rw [writeCarCtrl_disables (s := s.wordAt ..) on same stop, disableCarrier_eq]
      rfl
    · exact congrArg _ (writeCarCtrl_stores off stay)
    · rw [writeCarCtrl_enables (s := s.wordAt ..) off start, enableCarrier_eq]
      rfl
  · intro x w s h i
    have index : (Reg.carWidth x).index = i := Reg.carWidth_index x
    clear_value i
    subst index
    rw [exec_carWidth_of_listens h]
    exact ⟨fun zero => congrArg _ (writeCarWidth_refused zero),
      fun high low => congrArg _ (writeCarWidth_pends high low)⟩

/-- Settles O50: each event in the phase it ends, and as no event outside it. -/
theorem carrierPhaseEvents : Obligations.CarrierPhaseEvents := by
  intro x s hr c
  refine ⟨fun on high => ?_, fun on low => ?_, fun h => ?_, fun h => ?_⟩
  · rw [exec_highPhaseEnd_ends hr on high, endHighPhase_eq]
  · rw [exec_periodEnd_ends hr on low, endPeriod_eq]
    rfl
  · exact exec_highPhaseEnd_idle hr (Carrier.not_enabled_in h nofun)
  · exact exec_periodEnd_idle hr (Carrier.not_enabled_in h nofun)

end Sys2Proof.Machine
end

/-! ## GROUPg_MEMBERS (R113, R170) -/

section
namespace Sys2Proof.Machine

/-- Settles O20: the write is judged by the arrived set alone. -/
theorem groupMembersWrite : Obligations.GroupMembersWrite := by
  intro g w s h i
  have written : exec (.groupMembers g w) s = .next (writeMembers g w (s.wordAt .write i)) :=
    congrArg Host.Outcome.next (hostWord_of_listens h ..)
  rw [written]
  exact ⟨fun empty => congrArg _ (if_pos empty), fun held => congrArg _ (if_neg held)⟩

end Sys2Proof.Machine
end

/-! ## Arrived sets: what an operation inside an event keeps of them (R112, R113, R115 to R122) -/

section
namespace Sys2Proof.Machine

/-! ### Lanes held for a group, and lanes no group holds -/

/-- `State.HeldFor` as what it reads of the lane. -/
def Lane.HeldFor (l : Lane) (g : GroupId) : Prop :=
  (l.state = .waiting ∧ l.waitSource = some (.group g) ∧ l.waitSatisfied = false) ∨
    (l.state = .armed ∧
      ∃ a, l.queue.active = some a ∧ a.desc.start = .onGroup g ∧ a.startMet = false)

theorem State.heldFor_iff (s : State) (n : LaneId) (g : GroupId) :
    s.HeldFor n g ↔ (s.lane n).HeldFor g := Iff.rfl

theorem Lane.HeldFor.state {l : Lane} {g : GroupId} (h : l.HeldFor g) :
    l.state = .waiting ∨ l.state = .armed := h.imp And.left And.left

/-- A lane waits for one group at a time. -/
theorem Lane.HeldFor.unique {l : Lane} {g k : GroupId} (h : l.HeldFor g) (i : l.HeldFor k) :
    g = k := by
  rcases h with ⟨hs, source, -⟩ | ⟨hs, a, ha, start, -⟩
  · rcases i with ⟨-, source', -⟩ | ⟨is, -⟩
    · simpa [source] using source'
    · exact nomatch hs.symm.trans is
  · rcases i with ⟨is, -⟩ | ⟨-, b, hb, start', -⟩
    · exact nomatch hs.symm.trans is
    · obtain rfl : a = b := Option.some.inj (ha.symm.trans hb)
      simpa [start] using start'

/-- A change of a lane that ends no wait for a group, and is no fault. -/
structure Lane.KeepsHold (l m : Lane) : Prop where
  held : ∀ g, l.HeldFor g → m.HeldFor g
  faulted : m.state = .faulted → l.state = .faulted

theorem Lane.KeepsHold.refl (l : Lane) : l.KeepsHold l := ⟨fun _ => id, id⟩

theorem Lane.KeepsHold.trans {l m k : Lane} (h : l.KeepsHold m) (i : m.KeepsHold k) :
    l.KeepsHold k := ⟨fun g => i.held g ∘ h.held g, h.faulted ∘ i.faulted⟩

/-- No arrived set holds lane n. -/
def PerGroup.Lacks (gs : PerGroup Group) (n : LaneId) : Prop :=
  ∀ g, LaneSet.has (gs.get g).arrived n = false

/-- Lane n is a member of no group that holds lanes, so that its fault breaks no barrier (R121). -/
def PerGroup.ClearOf (gs : PerGroup Group) (n : LaneId) : Prop :=
  ∀ g m, LaneSet.has (gs.get g).arrived m = true → LaneSet.has (gs.get g).members n = false

/-- Group g takes an arrival of lane n: n is a member, and no member is FAULTED (R115). -/
def State.Admits (s : State) (g : GroupId) (n : LaneId) : Prop :=
  LaneSet.has (s.group g).members n = true ∧
    ∀ m, LaneSet.has (s.group g).members m = true → (s.lane m).state ≠ .faulted

/-- The checks of an arrival, passed (R56, R82). -/
theorem State.admits_of_checks {s : State} {g : GroupId} {n : LaneId}
    (member : ¬ LaneSet.has (s.group g).members n = false) (sound : ¬ memberFaulted s g = true) :
    s.Admits g n :=
  ⟨by simpa using member, fun m hm faulted => sound ((memberFaulted_iff s g).2 ⟨m, hm, faulted⟩)⟩

theorem State.Admits.setLane {s : State} {g : GroupId} {n k : LaneId} {l : Lane}
    (h : s.Admits g n) (sound : l.state = .faulted → (s.lane k).state = .faulted) :
    (s.setLane k l).Admits g n := by
  obtain ⟨member, standing⟩ := h
  refine ⟨member, fun m hm => ?_⟩
  rw [State.lane_setLane]
  split
  · next hk => exact fun faulted => standing m hm (hk ▸ sound faulted)
  · exact standing m hm

/-! ### The invariant, lane by lane -/

/-- `State.GroupsOk` at each lane held: the group would take it still, and the lane waits for it.
That no lane is in both arrived sets is part of this, since a lane waits for one group at a time. -/
theorem State.groupsOk_iff (s : State) :
    s.GroupsOk ↔ ∀ g n, LaneSet.has (s.group g).arrived n = true →
      s.Admits g n ∧ (s.lane n).HeldFor g := by
  constructor
  · rintro ⟨h, -⟩ g n hn
    obtain ⟨member, held⟩ := (h g).1 n hn
    refine ⟨⟨member, fun m hm faulted => ?_⟩, (s.heldFor_iff n g).1 held⟩
    exact LaneSet.ne_zero_of_has hn ((h g).2 ((memberFaulted_iff s g).2 ⟨m, hm, faulted⟩))
  · intro h
    refine ⟨fun g => ⟨fun n hn => ?_, fun broken => ?_⟩,
      fun n ⟨h0, h1⟩ => nomatch (h .g0 n h0).2.unique (h .g1 n h1).2⟩
    · obtain ⟨⟨member, -⟩, held⟩ := h g n hn
      exact ⟨member, (s.heldFor_iff n g).2 held⟩
    · obtain ⟨m, hm, faulted⟩ := (memberFaulted_iff s g).1 broken
      refine LaneSet.ext_has fun n => ?_
      exact (Bool.eq_false_iff.2 fun hn => (h g n hn).1.2 m hm faulted).trans
        (LaneSet.has_zero n).symm

section
variable {s t : State} {n : LaneId} {g : GroupId}

theorem State.GroupsOk.admits (h : s.GroupsOk) (hn : LaneSet.has (s.group g).arrived n = true) :
    s.Admits g n := ((s.groupsOk_iff.1 h) g n hn).1

theorem State.GroupsOk.held (h : s.GroupsOk) (hn : LaneSet.has (s.group g).arrived n = true) :
    (s.lane n).HeldFor g := ((s.groupsOk_iff.1 h) g n hn).2

/-- A lane that waits for no group is held at none. -/
theorem State.GroupsOk.lacks (h : s.GroupsOk) (free : ∀ g, ¬ (s.lane n).HeldFor g) :
    s.groups.Lacks n := fun g => Bool.eq_false_iff.2 fun hn => free g (h.held hn)

theorem State.GroupsOk.lacks_of_state (h : s.GroupsOk) (waiting : (s.lane n).state ≠ .waiting)
    (armed : (s.lane n).state ≠ .armed) : s.groups.Lacks n :=
  h.lacks fun _ held => held.state.elim waiting armed

/-- A lane held at one group is held at no other. -/
theorem State.GroupsOk.apart (h : s.GroupsOk) (hn : LaneSet.has (s.group g).arrived n = true)
    {k : GroupId} (hk : k ≠ g) : LaneSet.has (s.group k).arrived n = false :=
  Bool.eq_false_iff.2 fun hn' => hk ((h.held hn').unique (h.held hn))

/-- A lane whose fault breaks no barrier is held at none. -/
theorem State.GroupsOk.lacks_of_clear (h : s.GroupsOk) (clear : s.groups.ClearOf n) :
    s.groups.Lacks n := fun g => Bool.eq_false_iff.2 fun hn =>
  Bool.eq_false_iff.1 (clear g n hn) (h.admits hn).1

/-- The invariant rests on the lanes held and the members of their groups alone. -/
theorem State.GroupsOk.of_held (h : s.GroupsOk)
    (kept : ∀ g n, LaneSet.has (t.group g).arrived n = true →
      LaneSet.has (s.group g).arrived n = true ∧ (t.group g).members = (s.group g).members ∧
        ((s.lane n).HeldFor g → (t.lane n).HeldFor g) ∧
        ∀ m, LaneSet.has (s.group g).members m = true →
          (t.lane m).state = .faulted → (s.lane m).state = .faulted) : t.GroupsOk := by
  refine t.groupsOk_iff.2 fun g n hn => ?_
  obtain ⟨arrived, members, held, faulted⟩ := kept g n hn
  obtain ⟨member, standing⟩ := h.admits arrived
  rw [State.Admits, members]
  exact ⟨⟨member, fun m hm => standing m hm ∘ faulted m hm⟩, held (h.held arrived)⟩

/-- A change of lanes, which faults none and ends a wait for a group only where no group holds the
lane. -/
theorem State.GroupsOk.of_lanes (h : s.GroupsOk) (groups : t.groups = s.groups)
    (held : ∀ n, s.groups.Lacks n ∨ ∀ g, (s.lane n).HeldFor g → (t.lane n).HeldFor g)
    (faulted : ∀ n, (t.lane n).state = .faulted → (s.lane n).state = .faulted) : t.GroupsOk := by
  have same (g : GroupId) : t.group g = s.group g := congrArg (fun v => PerGroup.get v g) groups
  refine h.of_held fun g n hn => ?_
  rw [same] at hn ⊢
  refine ⟨hn, rfl, (held n).elim (fun lacks => ?_) (fun keeps => keeps g), fun m _ => faulted m⟩
  exact absurd hn (Bool.eq_false_iff.1 (lacks g))

theorem State.GroupsOk.of_keeps (h : s.GroupsOk) (groups : t.groups = s.groups)
    (keeps : ∀ n, (s.lane n).KeepsHold (t.lane n)) : t.GroupsOk :=
  h.of_lanes groups (fun n => .inr (keeps n).held) fun n => (keeps n).faulted

theorem State.GroupsOk.of_same (h : s.GroupsOk) (groups : t.groups = s.groups)
    (lanes : t.lanes = s.lanes) : t.GroupsOk :=
  h.of_keeps groups fun n => by rw [State.lane, State.lane, lanes]; exact .refl _

/-- One function of each lane that keeps its wait for a group. -/
theorem State.GroupsOk.build (h : s.GroupsOk) {f : LaneId → Lane → Lane}
    (groups : t.groups = s.groups) (lanes : t.lanes = PerLane.build fun n => f n (s.lane n))
    (keeps : ∀ n l, Lane.KeepsHold l (f n l)) : t.GroupsOk :=
  h.of_keeps groups fun n => by
    rw [show t.lane n = f n (s.lane n) by rw [State.lane, lanes, PerLane.get_build]]
    exact keeps n _

theorem State.GroupsOk.setLane_keeps (h : s.GroupsOk) {l : Lane} (keeps : (s.lane n).KeepsHold l) :
    (s.setLane n l).GroupsOk := by
  refine h.of_keeps rfl fun m => ?_
  rw [State.lane_setLane]
  split
  · next hm => exact hm ▸ keeps
  · exact .refl _

/-- A lane no group holds may change in all but a fault. -/
theorem State.GroupsOk.setLane (h : s.GroupsOk) (lacks : s.groups.Lacks n) {l : Lane}
    (sound : l.state = .faulted → (s.lane n).state = .faulted) : (s.setLane n l).GroupsOk := by
  refine h.of_lanes rfl (fun m => ?_) fun m => ?_
  · by_cases hm : m = n
    · exact .inl (hm ▸ lacks)
    · rw [State.lane_setLane_ne _ _ hm]
      exact .inr fun _ => id
  · rw [State.lane_setLane]
    split
    · next hm => exact hm ▸ sound
    · exact id

/-- Lanes that leave arrived sets. -/
theorem State.GroupsOk.of_fewer (h : s.GroupsOk) (lanes : t.lanes = s.lanes)
    (members : ∀ g, (t.group g).members = (s.group g).members)
    (arrived : ∀ g n, LaneSet.has (t.group g).arrived n = true →
      LaneSet.has (s.group g).arrived n = true) : t.GroupsOk := by
  have same (m : LaneId) : t.lane m = s.lane m := congrArg (fun v => PerLane.get v m) lanes
  exact h.of_held fun g n hn =>
    ⟨arrived g n hn, members g, same n ▸ id, fun m _ => same m ▸ id⟩

end

/-! ### Offers of records, and the end of an event -/

theorem offerInfo_groups (b : EventBody) (s : State) : (offerInfo b s).groups = s.groups := by
  rcases offerInfo_cases b s with ⟨-, h⟩ | ⟨-, h⟩ <;> rw [h]

theorem postTerminal_sameGroups (n : LaneId) (d : Descriptor) (b : EventBody) (s : State) :
    (postTerminal n d b s).groups = s.groups := by
  rcases postTerminal_cases n d b s with ⟨-, h⟩ | ⟨-, h⟩ <;> rw [h]
  rfl

theorem recordTimebase_groups (st : TbState) (loss lock : Bool) (s : State) :
    (recordTimebase st loss lock s).groups = s.groups := by
  rcases recordTimebase_cases st loss lock s with ⟨r, r', -, h⟩ | ⟨r, -, -, h⟩ | ⟨r, -, -, h⟩ <;>
    rw [h]

theorem State.GroupsOk.recordTimebase {s : State} (h : s.GroupsOk) (st : TbState)
    (loss lock : Bool) : (recordTimebase st loss lock s).GroupsOk :=
  h.of_same (recordTimebase_groups ..) (recordTimebase_frame ..).1

theorem State.GroupsOk.offerInfo {s : State} (h : s.GroupsOk) (b : EventBody) :
    (offerInfo b s).GroupsOk := h.of_same (offerInfo_groups b s) (offerInfo_lanes b s)

/-- A terminal record takes its lane an AWAIT_POST slot at most. -/
theorem postTerminal_keepsHold (n : LaneId) (d : Descriptor) (b : EventBody) (s : State)
    (m : LaneId) : (s.lane m).KeepsHold ((postTerminal n d b s).lane m) := by
  rcases postTerminal_cases n d b s with ⟨-, h⟩ | ⟨-, h⟩ <;> rw [h]
  · exact .refl _
  · change (s.lane m).KeepsHold ((s.setLane n _).lane m)
    rw [State.lane_setLane]
    split
    · next hm => exact hm ▸ ⟨fun _ => id, id⟩
    · exact .refl _

theorem State.GroupsOk.postTerminal {s : State} (h : s.GroupsOk) (n : LaneId) (d : Descriptor)
    (b : EventBody) : (postTerminal n d b s).GroupsOk :=
  h.of_keeps (postTerminal_sameGroups n d b s) (postTerminal_keepsHold n d b s)

theorem endSegment_keepsHold (c : Carrier) (x : CarrierId) (l : Lane) :
    l.KeepsHold (endSegment c x l) := by
  unfold endSegment
  split <;> exact ⟨fun _ => id, id⟩

theorem beginSegment_keepsHold (x : CarrierId) (l : Lane) : l.KeepsHold (beginSegment x l) := by
  unfold beginSegment
  split
  · exact ⟨fun _ => id, id⟩
  · split <;> exact ⟨fun _ => id, id⟩

theorem judgeSegment_keepsHold (cs : PerCarrier Carrier) (a b : Lane) :
    b.KeepsHold (judgeSegment cs a b) := by
  have ended : b.KeepsHold (match a.called with
      | some x => endSegment (cs.get x) x b
      | none => b) := by
    split
    · exact endSegment_keepsHold ..
    · exact .refl b
  unfold judgeSegment
  split
  · exact .refl b
  · dsimp only
    split
    · exact ended.trans (beginSegment_keepsHold ..)
    · exact ended

theorem State.GroupsOk.settle {t : State} (h : t.GroupsOk) (s : State) : (settle s t).GroupsOk :=
  h.of_keeps rfl fun n => by rw [settle_lane]; exact judgeSegment_keepsHold ..

/-! ### Faults (R67, R121) -/

theorem depart_lacks (n : LaneId) (s : State) : (depart n s).groups.Lacks n := by
  intro g
  change LaneSet.has ((depart n s).group g).arrived n = false
  simp

theorem PerGroup.Lacks.depart {s : State} {m : LaneId} (h : s.groups.Lacks m) (n : LaneId) :
    (depart n s).groups.Lacks m := by
  intro g
  change LaneSet.has ((Machine.depart n s).group g).arrived m = false
  rw [depart_arrived, LaneSet.has_erase]
  exact Bool.and_eq_false_imp.2 fun hm => absurd hm (Bool.eq_false_iff.1 (h g))

theorem State.GroupsOk.depart {s : State} (h : s.GroupsOk) (n : LaneId) :
    (depart n s).GroupsOk := by
  refine h.of_fewer rfl (depart_members n s) fun g m hm => ?_
  rw [depart_arrived, LaneSet.has_erase] at hm
  exact (Bool.and_eq_true_iff.1 hm).1

/-- What the breaks leave held was held, and its group is not broken. -/
theorem breakBarriers_arrived {ls : List LaneId} {s : State} {g : GroupId} {n : LaneId}
    (h : LaneSet.has ((breakBarriers ls s).1.group g).arrived n = true) :
    breaks s ls g = false ∧ LaneSet.has (s.group g).arrived n = true := by
  rw [breakBarriers_state, State.group, PerGroup.get_build] at h
  dsimp only at h
  split at h
  · simp at h
  · next whole => exact ⟨by simpa using whole, h⟩

theorem breakBarriers_members (ls : List LaneId) (s : State) (g : GroupId) :
    ((breakBarriers ls s).1.group g).members = (s.group g).members := by
  rw [breakBarriers_state, State.group, PerGroup.get_build]

theorem State.GroupsOk.breakBarriers {s : State} (h : s.GroupsOk) (ls : List LaneId) :
    (breakBarriers ls s).1.GroupsOk :=
  h.of_fewer (by rw [breakBarriers_state]) (breakBarriers_members ls s)
    fun _ _ hn => (breakBarriers_arrived hn).2

/-- Two breaks are enough: no group that still holds lanes has a member among the lanes that fault,
be they the ones given or the ones they break (R121). -/
theorem breakBarriers_clearOf {ls : List LaneId} {s : State} {n : LaneId}
    (h : n ∈ ls ∨ n ∈ (breakBarriers ls s).2) : (breakBarriers ls s).1.groups.ClearOf n := by
  intro g m hm
  obtain ⟨whole, held⟩ := breakBarriers_arrived hm
  obtain ⟨first, second⟩ := Bool.or_eq_false_iff.1 whole
  change LaneSet.has ((breakBarriers ls s).1.group g).members n = false
  rw [breakBarriers_members, ← Bool.not_eq_true]
  intro member
  have holds : decide ((s.group g).arrived ≠ 0) = true :=
    decide_eq_true (LaneSet.ne_zero_of_has held)
  rcases h with given | broken
  · have hit : groupHit s ls g = true :=
      Bool.and_eq_true_iff.2 ⟨holds, List.any_eq_true.2 ⟨n, given, member⟩⟩
    exact Bool.false_ne_true (first.symm.trans hit)
  · obtain ⟨k, broken, arrived⟩ := (mem_breakBarriers ls s n).1 broken
    rcases GroupId.eq_or_eq_other g k with rfl | rfl
    · exact Bool.false_ne_true (whole.symm.trans broken)
    · have beside : groupHit s ls g.other = false := by
        by_contra hit
        refine Bool.false_ne_true (second.symm.trans ?_)
        rw [Bool.not_eq_false] at hit
        rw [breaksSecond, first, holds, hit]
        exact List.any_eq_true.2 ⟨n, LaneId.mem_all n, Bool.and_eq_true_iff.2 ⟨arrived, member⟩⟩
      simp [breaks, breaksSecond, beside, first] at broken

theorem enterFault_groups (c : FaultCause) (n : LaneId) (s : State) :
    (enterFault c n s).groups = s.groups := by
  unfold enterFault
  dsimp only
  split
  · rfl
  · exact postTerminal_sameGroups ..

/-- A fault that breaks no barrier. -/
theorem State.GroupsOk.enterFault {s : State} {n : LaneId} (h : s.GroupsOk)
    (clear : s.groups.ClearOf n) (c : FaultCause) : (enterFault c n s).GroupsOk := by
  have entered : (s.setLane n ((s.lane n).faulted c)).GroupsOk := by
    refine h.of_held fun g m hm => ⟨hm, rfl, ?_, fun k hk => ?_⟩
    · have ne : m ≠ n := fun e => Bool.eq_false_iff.1 (h.lacks_of_clear clear g) (e ▸ hm)
      rw [State.lane_setLane_ne _ _ ne]
      exact id
    · have ne : k ≠ n := fun e => Bool.eq_false_iff.1 (clear g m hm) (e ▸ hk)
      rw [State.lane_setLane_ne _ _ ne]
      exact id
  unfold Machine.enterFault
  dsimp only
  split
  · exact entered
  · exact entered.postTerminal ..

/-- The fault entries of one event, the breaks taken already: each lane is given with its cause, if
it faults. -/
theorem State.GroupsOk.foldl_enterFault {s : State} (h : s.GroupsOk) {f : State → LaneId → State}
    {ns : List LaneId}
    (hf : ∀ t, ∀ n ∈ ns, f t n = t ∨
      s.groups.ClearOf n ∧ ∃ c, f t n = Machine.enterFault c n t) :
    (ns.foldl f s).GroupsOk ∧ (ns.foldl f s).groups = s.groups := by
  refine List.foldlRecOn (motive := fun t => t.GroupsOk ∧ t.groups = s.groups) ns f ⟨h, rfl⟩ ?_
  rintro t ⟨ok, groups⟩ n hn
  rcases hf t n hn with stays | ⟨clear, c, enters⟩
  · rw [stays]
    exact ⟨ok, groups⟩
  · rw [enters]
    exact ⟨ok.enterFault (groups ▸ clear) c, (enterFault_groups ..).trans groups⟩

/-- A fault, with all it breaks: what is held behind it was held before it. -/
theorem State.GroupsOk.faultLane {s : State} (h : s.GroupsOk) (c : FaultCause) (n : LaneId) :
    (faultLane c n s).GroupsOk ∧
      ∀ m, s.groups.Lacks m → (faultLane c n s).groups.Lacks m := by
  have departed := h.depart n
  have own := (departed.breakBarriers [n]).enterFault
    (breakBarriers_clearOf (.inl List.mem_cons_self)) c
  have same := enterFault_groups c n (Machine.breakBarriers [n] (Machine.depart n s)).1
  have rest := own.foldl_enterFault (f := fun t m => Machine.enterFault .barrierBroken m t)
    (ns := (Machine.breakBarriers [n] (Machine.depart n s)).2)
    fun t m hm => .inr ⟨same ▸ breakBarriers_clearOf (.inr hm), _, rfl⟩
  obtain ⟨ok, groups⟩ := rest
  refine ⟨ok, fun m lacks => ?_⟩
  unfold Machine.faultLane
  rw [groups, same]
  exact fun g => Bool.eq_false_iff.2 fun hm =>
    Bool.eq_false_iff.1 (lacks.depart n g) (breakBarriers_arrived hm).2

end Sys2Proof.Machine
end

/-! ## Arrived sets over the run of an event (R49 to R57, R78 to R87, R115 to R122) -/

section
namespace Sys2Proof.Machine

/-- The lane a piece of work is for. -/
def Work.lane : Work → LaneId
  | .step n _ | .start n | .released n => n

/-- What an operation of lane n leaves that begins with the groups given: its work is for lanes no
group holds, each once, and a lane other than n that no group held is held at none still, and has no
work of this operation. So the work that waits behind the operation, for lanes of its own, stands as
it did. -/
structure KeepsGroups (n : LaneId) (gs : PerGroup Group) (r : State × List Work) : Prop where
  groups : r.1.GroupsOk
  turns : ∀ m ∈ r.2.map Work.lane, r.1.groups.Lacks m
  once : (r.2.map Work.lane).Nodup
  others : ∀ m, m ≠ n → gs.Lacks m → r.1.groups.Lacks m ∧ m ∉ r.2.map Work.lane

section
variable {n : LaneId} {gs : PerGroup Group} {s : State} {b : Bool}

theorem KeepsGroups.noWork (h : s.GroupsOk)
    (others : ∀ m, m ≠ n → gs.Lacks m → s.groups.Lacks m) : KeepsGroups n gs (s, []) :=
  ⟨h, fun _ => nofun, List.nodup_nil, fun m hm lacks => ⟨others m hm lacks, List.not_mem_nil⟩⟩

/-- An operation that moves no lane to or from a group, and leaves no work. -/
theorem KeepsGroups.idle (h : s.GroupsOk) (same : s.groups = gs) : KeepsGroups n gs (s, []) :=
  .noWork h fun _ _ => same ▸ id

/-- One piece of work, for lane n itself. -/
theorem KeepsGroups.own {w : Work} (h : s.GroupsOk) (lacks : s.groups.Lacks n)
    (same : s.groups = gs) (hw : w.lane = n) : KeepsGroups n gs (s, [w]) := by
  have lanes : [w].map Work.lane = [n] := congrArg (fun m => [m]) hw
  refine ⟨h, fun m hm => ?_, List.nodup_singleton _, fun m hm hl => ⟨same ▸ hl, ?_⟩⟩
  · rw [lanes] at hm
    exact List.mem_singleton.1 hm ▸ lacks
  · rw [lanes]
    exact hm ∘ List.mem_singleton.1

/-- An operation behind a change that brings no lane but lane n to a group. -/
theorem KeepsGroups.weaken {fs : PerGroup Group} {r : State × List Work} (k : KeepsGroups n fs r)
    (fewer : ∀ m, m ≠ n → gs.Lacks m → fs.Lacks m) : KeepsGroups n gs r :=
  ⟨k.groups, k.turns, k.once, fun m hm lacks => k.others m hm (fewer m hm lacks)⟩

theorem KeepsGroups.of_depart {r : State × List Work} (k : KeepsGroups n (depart n s).groups r)
    (same : s.groups = gs) : KeepsGroups n gs r :=
  k.weaken fun _ _ lacks => PerGroup.Lacks.depart (s := s) (same ▸ lacks) n

/-- A step behind the offer of an informational record. -/
theorem KeepsGroups.offered {e : EventBody} {a : Addr} (h : s.GroupsOk) (lacks : s.groups.Lacks n)
    (same : s.groups = gs) : KeepsGroups n gs (offerInfo e s, [.step n a]) := by
  have groups := offerInfo_groups e s
  exact .own (h.offerInfo e) (groups.symm ▸ lacks) (groups.trans same) rfl

theorem KeepsGroups.fault {c : FaultCause} (h : s.GroupsOk) (same : s.groups = gs) :
    KeepsGroups n gs (faultLane c n s, []) := by
  obtain ⟨ok, lacks⟩ := h.faultLane c n
  exact .noWork ok fun m _ => same ▸ lacks m

/-! ### Releases and arrivals -/

theorem State.lacks_setGroup (s : State) {g : GroupId} {x : Group} {m : LaneId}
    (own : LaneSet.has x.arrived m = false)
    (others : ∀ k, k ≠ g → LaneSet.has (s.group k).arrived m = false) :
    (s.setGroup g x).groups.Lacks m := by
  intro k
  change LaneSet.has ((s.setGroup g x).group k).arrived m = false
  by_cases hk : k = g
  · rw [hk, State.group_setGroup_self]
    exact own
  · rw [State.group_setGroup_ne _ _ hk]
    exact others k hk

/-- A released lane is no longer held, so that its wait may end (R57, R82, R117). -/
theorem KeepsGroups.releaseGroup (g : GroupId) (h : s.GroupsOk) :
    KeepsGroups n s.groups (releaseGroup g b s) := by
  have emptied (v : BitVec 16) :
      (s.setGroup g { s.group g with arrived := 0, count := v }).GroupsOk := by
    refine h.of_fewer rfl (fun k => ?_) fun k m hm => ?_
    · by_cases hk : k = g
      · rw [hk, State.group_setGroup_self]
      · rw [State.group_setGroup_ne _ _ hk]
    · by_cases hk : k = g
      · rw [hk, State.group_setGroup_self] at hm
        exact absurd hm (by simp)
      · rwa [State.group_setGroup_ne _ _ hk] at hm
  have lacks (v : BitVec 16) (e : EventBody) (m : LaneId)
      (hm : ∀ k, k ≠ g → LaneSet.has (s.group k).arrived m = false) :
      (offerInfo e (s.setGroup g { s.group g with arrived := 0, count := v })).groups.Lacks m := by
    rw [offerInfo_groups]
    exact s.lacks_setGroup (LaneSet.has_zero m) hm
  unfold Machine.releaseGroup
  dsimp only
  cases b with
  | true =>
    rw [if_pos rfl]
    have lanes : ((LaneSet.toList (s.group g).arrived).map Work.released).map Work.lane
        = LaneSet.toList (s.group g).arrived := (List.map_map ..).trans (List.map_id _)
    refine ⟨(emptied _).offerInfo _, fun m hm => ?_, ?_,
      fun m _ hm => ⟨lacks _ _ m fun k _ => hm k, ?_⟩⟩
    · rw [lanes, LaneSet.mem_toList] at hm
      exact lacks _ _ m fun k hk => h.apart hm hk
    · rw [lanes]
      exact LaneId.nodup_all.filter _
    · rw [lanes, LaneSet.mem_toList]
      exact Bool.eq_false_iff.1 (hm g)
  | false =>
    rw [if_neg Bool.false_ne_true]
    refine .noWork (((emptied _).offerInfo _).of_lanes rfl (fun m => ?_) fun m => ?_)
      fun m _ hm => lacks _ _ m fun k _ => hm k
    · dsimp only [State.lane]
      rw [PerLane.get_build]
      by_cases hm : LaneSet.has (s.group g).arrived m = true
      · exact .inl (lacks _ _ m fun k hk => h.apart hm hk)
      · rw [if_neg hm]
        exact .inr fun _ => id
    · dsimp only [State.lane]
      rw [PerLane.get_build]
      split
      · rw [(Lane.releaseBetween_alike _).state]
        exact id
      · exact id

/-- A lane that waits for group g arrives there (R115). -/
theorem KeepsGroups.arrive {g : GroupId} (h : s.GroupsOk) (admits : s.Admits g n)
    (held : (s.lane n).HeldFor g) (same : s.groups = gs) :
    KeepsGroups n gs (arrive g n b s) := by
  subst same
  have inserted : (s.setGroup g { s.group g with
      arrived := LaneSet.insert (s.group g).arrived n }).GroupsOk := by
    refine (State.groupsOk_iff _).2 fun k m hm => ?_
    rw [State.Admits]
    by_cases hk : k = g
    · subst hk
      rw [State.group_setGroup_self] at hm ⊢
      rw [LaneSet.has_insert, Bool.or_eq_true, decide_eq_true_eq] at hm
      rcases hm with there | rfl
      · exact ⟨h.admits there, h.held there⟩
      · exact ⟨admits, held⟩
    · rw [State.group_setGroup_ne _ _ hk] at hm ⊢
      exact ⟨h.admits hm, h.held hm⟩
  have others (m : LaneId) (hm : m ≠ n) (lacks : s.groups.Lacks m) :
      (s.setGroup g { s.group g with
        arrived := LaneSet.insert (s.group g).arrived n }).groups.Lacks m := by
    refine s.lacks_setGroup ?_ fun k _ => lacks k
    rw [LaneSet.has_insert, decide_eq_false hm, Bool.or_false]
    exact lacks g
  unfold Machine.arrive
  dsimp only
  split
  · exact (KeepsGroups.releaseGroup g inserted).weaken others
  · exact .noWork inserted others

/-! ### Activation and retirement -/

theorem KeepsGroups.startNow (h : s.GroupsOk) (lacks : s.groups.Lacks n) (same : s.groups = gs) :
    KeepsGroups n gs (startNow n b s) := by
  unfold Machine.startNow
  split
  · exact .own h lacks same rfl
  · exact .idle (h.setLane lacks id) same

theorem KeepsGroups.applyStart {c : StartCond} (h : s.GroupsOk) (lacks : s.groups.Lacks n)
    (held : ∀ g, c = .onGroup g → (s.lane n).HeldFor g) (same : s.groups = gs) :
    KeepsGroups n gs (applyStart n c b s) := by
  unfold Machine.applyStart
  split
  · exact .startNow h lacks same
  · split
    · exact .idle h same
    · exact .startNow h lacks same
  · exact .idle h same
  · next g =>
    split
    · exact .fault h same
    · next member =>
      split
      · exact .fault h same
      · next sound => exact .arrive h (s.admits_of_checks member sound) (held g rfl) same

theorem KeepsGroups.activate (h : s.GroupsOk) (lacks : s.groups.Lacks n) (same : s.groups = gs) :
    KeepsGroups n gs (activate n b s) := by
  unfold Machine.activate
  dsimp only
  split
  · exact .idle h same
  · next d rest _ =>
    refine .applyStart (h.setLane lacks nofun) lacks (fun g hg => ?_) same
    rw [State.lane_setLane_self]
    exact .inr ⟨rfl, _, rfl, hg, rfl⟩

theorem KeepsGroups.retire {e : Ending} (h : s.GroupsOk) (lacks : s.groups.Lacks n)
    (same : s.groups = gs) : KeepsGroups n gs (retire n e b s) := by
  unfold Machine.retire
  dsimp only
  split
  · exact .idle h same
  · next a _ =>
    have retired : (s.setLane n ((s.lane n).retired a.desc.rest)).GroupsOk := h.setLane lacks id
    have posted := retired.postTerminal n a.desc
      (.done n a.desc.tag (doneFields (s.lane n) a e))
    have groups := postTerminal_sameGroups n a.desc
      (.done n a.desc.tag (doneFields (s.lane n) a e))
      (s.setLane n ((s.lane n).retired a.desc.rest))
    have free := lacks
    change (s.setLane n ((s.lane n).retired a.desc.rest)).groups.Lacks n at free
    rw [← groups] at free
    split
    · exact .idle (posted.setLane free nofun) (groups.trans same)
    · exact .activate posted free (groups.trans same)

/-! ### Steps -/

theorem KeepsGroups.endPass (h : s.GroupsOk) (lacks : s.groups.Lacks n) (same : s.groups = gs) :
    KeepsGroups n gs (endPass n s) := by
  unfold Machine.endPass
  dsimp only
  split
  · exact .idle h same
  · split
    · exact .retire (h.setLane lacks id) lacks same
    · split
      · exact .retire (h.setLane lacks id) lacks same
      · exact .own (h.setLane lacks id) lacks same rfl

/-- A step of a lane no group holds; a WAIT on a group comes behind its checks. -/
theorem KeepsGroups.executeStep {r : StepRecord} {a : Addr} (h : s.GroupsOk)
    (lacks : s.groups.Lacks n)
    (checked : ∀ g level strict t, r = .wait (.group g) level strict t → s.Admits g n)
    (same : s.groups = gs) : KeepsGroups n gs (executeStep n a r s) := by
  have waits (g : GroupId) (level : StepLevel) (strict : Bool) (t : BitVec 16)
      (admits : s.Admits g n) (l : Lane) (state : l.state = .waiting)
      (source : l.waitSource = some (.group g)) (unmet : l.waitSatisfied = false) :
      KeepsGroups n gs (Machine.arrive g n true (s.setLane n l)) := by
    have sound : l.state = .faulted → (s.lane n).state = .faulted := by
      rw [state]
      exact nofun
    refine .arrive (h.setLane lacks sound) (admits.setLane sound) ?_ same
    rw [State.lane_setLane_self]
    exact .inl ⟨state, source, unmet⟩
  unfold Machine.executeStep
  dsimp only
  split
  · exact .idle (h.setLane lacks nofun) same
  · exact .idle (h.setLane lacks nofun) same
  · next g level strict t =>
    have admits := checked g level strict t rfl
    split <;> exact waits g level strict t admits _ rfl rfl rfl
  · split
    · exact .own (h.setLane lacks id) lacks same rfl
    · exact .fault h same
  · split
    · split <;> exact .own (h.setLane lacks id) lacks same rfl
    · exact .fault h same
  · split
    · exact .own (h.setLane lacks id) lacks same rfl
    · exact .fault h same
  · split
    · exact .own (h.setLane lacks id) lacks same rfl
    · exact .fault h same
  · exact .own h lacks same rfl
  · next v => exact .offered h lacks same
  · exact .own (h.of_same rfl rfl) lacks same rfl
  · split
    · exact .endPass h lacks same
    · exact .fault h same

theorem KeepsGroups.budgetStep {r : StepRecord} {a : Addr} (h : s.GroupsOk)
    (lacks : s.groups.Lacks n)
    (checked : ∀ g level strict t, r = .wait (.group g) level strict t → s.Admits g n)
    (same : s.groups = gs) : KeepsGroups n gs (budgetStep n a r s) := by
  unfold Machine.budgetStep
  split
  · split
    · exact .fault h same
    · exact .executeStep (h.setLane lacks id) lacks
        (fun g level strict t hr => (checked g level strict t hr).setLane id) same
  · exact .executeStep h lacks checked same

theorem KeepsGroups.takeStep {a : Addr} (h : s.GroupsOk) (lacks : s.groups.Lacks n)
    (same : s.groups = gs) : KeepsGroups n gs (takeStep n a s) := by
  have begun : (s.setLane n ((s.lane n).beginStep a)).GroupsOk := h.setLane lacks id
  unfold Machine.takeStep
  dsimp only
  split
  · exact .fault begun same
  · split
    · exact .retire begun lacks same
    · split
      · next g level strict t _ =>
        split
        · exact .fault begun same
        · next member =>
          split
          · exact .fault begun same
          · next sound =>
            refine .budgetStep begun lacks (fun k _ _ _ hr => ?_) same
            cases hr
            exact (s.admits_of_checks member sound).setLane id
      · next none =>
        exact .budgetStep begun lacks (fun k level strict t hr => absurd hr (none k level strict t))
          same

theorem KeepsGroups.startLaunch (h : s.GroupsOk) (lacks : s.groups.Lacks n)
    (same : s.groups = gs) : KeepsGroups n gs (startLaunch n s) := by
  unfold Machine.startLaunch
  dsimp only
  split
  · exact .idle h same
  · exact .own (h.setLane lacks id) lacks same rfl

theorem KeepsGroups.stepReleased (h : s.GroupsOk) (lacks : s.groups.Lacks n)
    (same : s.groups = gs) : KeepsGroups n gs (stepReleased n s) := by
  have noted : (if (s.lane n).boundaryTaken then s.lane n
      else (s.lane n).noteTick s.tb.handedSet).state = (s.lane n).state := by
    split
    · rfl
    · exact (Lane.noteTick_alike ..).state
  unfold Machine.stepReleased
  dsimp only
  split
  · exact .own (h.setLane lacks noted.symm.trans) lacks same rfl
  · exact .own (h.setLane lacks id) lacks same rfl
  all_goals exact KeepsGroups.idle h same

theorem KeepsGroups.doWork (w : Work) (h : s.GroupsOk) (lacks : s.groups.Lacks w.lane) :
    KeepsGroups w.lane s.groups (doWork w s) := by
  cases w with
  | step n a => exact .takeStep h lacks rfl
  | start n => exact .startLaunch h lacks rfl
  | released n => exact .stepReleased h lacks rfl

end

/-- The run keeps the groups: each piece of work is for a lane that no group holds when its turn
comes. -/
theorem runWork_groupsOk (k : Nat) {ws : List Work} {s : State} (h : s.GroupsOk)
    (turns : ∀ m ∈ ws.map Work.lane, s.groups.Lacks m) (once : (ws.map Work.lane).Nodup) :
    (runWork k ws s).1.GroupsOk := by
  induction k generalizing ws s with
  | zero => cases ws <;> exact h
  | succ k ih =>
    cases ws with
    | nil => exact h
    | cons w rest =>
      obtain ⟨own, behind⟩ := List.forall_mem_cons.1 turns
      obtain ⟨fresh, once⟩ := List.nodup_cons.1 once
      have did := KeepsGroups.doWork w h own
      have apart (m : LaneId) (hm : m ∈ rest.map Work.lane) :=
        did.others m (fun e => fresh (e ▸ hm)) (behind m hm)
      refine ih did.groups (fun m hm => ?_) ?_
      · rw [List.map_append, List.mem_append] at hm
        exact hm.elim (did.turns m) fun hm => (apart m hm).1
      · rw [List.map_append]
        exact List.nodup_append'.2 ⟨did.once, once, fun m hw hm => (apart m hm).2 hw⟩

/-! ### A lane's own event -/

/-- The start of a lane held for a group is not due (R83). -/
theorem Lane.HeldFor.startDue {l : Lane} {g : GroupId} (h : l.HeldFor g) (armed : l.state = .armed)
    (now : Time) : l.startDue now = false := by
  rcases h with ⟨waiting, -⟩ | ⟨-, a, active, start, unmet⟩
  · exact nomatch armed.symm.trans waiting
  · simp [Lane.startDue, active, start, unmet]

/-- The wait of a lane held for a group is not satisfied (R48). -/
theorem Lane.HeldFor.unsatisfied {l : Lane} {g : GroupId} (h : l.HeldFor g)
    (waiting : l.state = .waiting) : l.waitSatisfied = false := by
  rcases h with ⟨-, -, unmet⟩ | ⟨armed, -⟩
  · exact unmet
  · exact nomatch waiting.symm.trans armed

section
variable {n : LaneId} {gs : PerGroup Group} {s : State}

theorem KeepsGroups.landSplice (h : s.GroupsOk) (same : s.groups = gs) :
    KeepsGroups n gs (landSplice n s) := by
  unfold Machine.landSplice
  exact .of_depart (.retire (h.depart n) (depart_lacks n s) rfl) same

theorem KeepsGroups.expireWait (h : s.GroupsOk) (same : s.groups = gs) :
    KeepsGroups n gs (expireWait n s) := by
  have left : (depart n
      (s.setLane n { s.lane n with waitSource := none, waitSatisfied := false })).GroupsOk :=
    State.GroupsOk.setLane (s := depart n s) (h.depart n) (depart_lacks n s) id
  unfold Machine.expireWait
  dsimp only
  refine .of_depart ?_ same
  split
  · exact .fault left rfl
  · split
    · exact .offered left (depart_lacks n s) rfl
    · exact .own left (depart_lacks n s) rfl rfl

theorem KeepsGroups.armedBoundary (h : s.GroupsOk) (armed : (s.lane n).state = .armed)
    (same : s.groups = gs) : KeepsGroups n gs (armedBoundary n s) := by
  unfold Machine.armedBoundary
  split
  · exact .landSplice h same
  · split
    · next due =>
      exact .own h (h.lacks fun _ held => Bool.eq_false_iff.1 (held.startDue armed _) due) same rfl
    · exact .idle h same

theorem KeepsGroups.runningBoundary (h : s.GroupsOk) (running : (s.lane n).state = .running)
    (same : s.groups = gs) : KeepsGroups n gs (runningBoundary n s) := by
  have lacks : s.groups.Lacks n := h.lacks_of_state (by simp [running]) (by simp [running])
  unfold Machine.runningBoundary
  dsimp only
  split
  · exact .own (h.setLane lacks id) lacks same rfl
  · exact .idle (h.setLane lacks id) same

theorem KeepsGroups.waitingBoundary (h : s.GroupsOk) (waiting : (s.lane n).state = .waiting)
    (same : s.groups = gs) : KeepsGroups n gs (waitingBoundary n s) := by
  unfold Machine.waitingBoundary
  dsimp only
  split
  · exact .landSplice h same
  · split
    · next met =>
      have lacks : s.groups.Lacks n :=
        h.lacks fun _ held => Bool.eq_false_iff.1 (held.unsatisfied waiting) met
      exact .own (h.setLane lacks id) lacks same rfl
    · split
      · exact .idle h same
      · split
        · exact .expireWait (h.setLane_keeps ⟨fun _ => id, id⟩) same
        · exact .idle (h.setLane_keeps ⟨fun _ => id, id⟩) same

theorem Lane.takeBoundary_keepsHold (k : DividerSet) (l : Lane) :
    l.KeepsHold (l.takeBoundary k) := by
  unfold Lane.takeBoundary Lane.noteTick
  split <;> exact ⟨fun _ => id, id⟩

theorem Lane.takeBoundary_state (k : DividerSet) (l : Lane) :
    (l.takeBoundary k).state = l.state := (Lane.noteTick_alike k l).state

theorem KeepsGroups.ownActions (h : s.GroupsOk) : KeepsGroups n s.groups (ownActions n s) := by
  have taken := h.setLane_keeps ((s.lane n).takeBoundary_keepsHold s.tb.handedSet)
  have state : ((s.setLane n ((s.lane n).takeBoundary s.tb.handedSet)).lane n).state
      = (s.lane n).state := by
    rw [State.lane_setLane_self, Lane.takeBoundary_state]
  unfold Machine.ownActions
  dsimp only
  split
  · exact .idle (h.setLane_keeps ⟨fun _ => id, id⟩) rfl
  · split
    · exact .idle taken rfl
    · split
      · next hs => exact .armedBoundary taken (state.trans hs) rfl
      · next hs => exact .runningBoundary taken (state.trans hs) rfl
      · next hs => exact .waitingBoundary taken (state.trans hs) rfl
      all_goals exact KeepsGroups.idle taken rfl

end

theorem laneEvent_groupsOk {n : LaneId} {s t : State} (hs : s.GroupsOk)
    (h : laneEvent n s = .next t) : t.GroupsOk := by
  obtain ⟨-, rfl⟩ := laneEvent_next h
  obtain ⟨ok, turns, once, -⟩ := KeepsGroups.ownActions (n := n) hs
  exact (runWork_groupsOk stepBudget ok turns once).settle s

end Sys2Proof.Machine
end

/-! ## Every step keeps the groups (R112, R113, R115, R121, R122) -/

section
namespace Sys2Proof.Machine

/-! ### The lane commands -/

section
variable {s : State}

theorem State.GroupsOk.report (hs : s.GroupsOk) (r : Result) (i : Index) :
    (s.report r i).GroupsOk := hs.of_same rfl rfl

/-- A descriptor queued at a lane ends no wait, and an IDLE lane is held at no group (R77). -/
theorem submitTo_groupsOk (n : LaneId) (hs : s.GroupsOk) : (submitTo n s).GroupsOk := by
  unfold submitTo
  split
  · exact hs.report ..
  · next d _ =>
    have queued : (s.setLane n { s.lane n with queue := { (s.lane n).queue with
        pending := (s.lane n).queue.pending ++ [d] } }).GroupsOk :=
      hs.setLane_keeps ⟨fun _ => id, id⟩
    dsimp only
    split
    · next idle =>
      have lacks : s.groups.Lacks n := hs.lacks_of_state (by simp [idle]) (by simp [idle])
      exact (KeepsGroups.activate (queued.report _ _) lacks rfl).groups.settle s
    · exact queued.report ..

theorem stopAtEnd_groupsOk (n : LaneId) (hs : s.GroupsOk) : (stopAtEnd n s).GroupsOk := by
  have pends : (s.setLane n { s.lane n with stopPending := true }).GroupsOk :=
    hs.setLane_keeps ⟨fun _ => id, id⟩
  unfold stopAtEnd
  dsimp only
  split
  · exact hs.report ..
  · exact hs.report ..
  · exact pends.report ..
  · exact pends.report ..
  · have retired := KeepsGroups.retire (e := .stopped) (b := false) (hs.depart n)
      (depart_lacks n s) rfl
    exact (retired.groups.report _ _).settle s

theorem spliceLane_groupsOk (n : LaneId) (hs : s.GroupsOk) : (spliceLane n s).GroupsOk := by
  unfold spliceLane
  dsimp only
  split
  · exact hs.report ..
  · exact hs.report ..
  · split
    · have pends : (s.setLane n { s.lane n with splicePending := true }).GroupsOk :=
        hs.setLane_keeps ⟨fun _ => id, id⟩
      exact pends.report ..
    · exact hs.report ..

theorem flushPending_groupsOk (n : LaneId) (ds : List Descriptor) (hs : s.GroupsOk) :
    (flushPending n ds s).GroupsOk :=
  List.foldlRecOn (motive := State.GroupsOk) ds _ hs fun _ h d _ =>
    h.postTerminal n d (.aborted n d.tag 0 .flushed d.entry)

theorem abortLane_groupsOk (n : LaneId) (hs : s.GroupsOk) : (abortLane n s).GroupsOk := by
  have aborted : ((depart n s).setLane n (s.lane n).aborted).GroupsOk :=
    (hs.depart n).setLane (depart_lacks n s) nofun
  have flushed (t : State) (h : t.GroupsOk) (r : Result) (i : Index) :
      ((flushPending n (s.lane n).queue.pending t).report r i).GroupsOk :=
    (flushPending_groupsOk n _ h).report r i
  unfold abortLane
  dsimp only
  refine (flushed _ ?_ _ _).settle s
  split
  · exact aborted
  · exact aborted.postTerminal ..

theorem clearFaultOf_groupsOk (n : LaneId) (hs : s.GroupsOk) : (clearFaultOf n s).GroupsOk := by
  unfold clearFaultOf
  dsimp only
  split
  · next faulted =>
    have lacks : s.groups.Lacks n := hs.lacks_of_state (by simp [faulted]) (by simp [faulted])
    have cleared : (s.setLane n { s.lane n with
        state := .idle, cause := none, rest := .cfgIdle }).GroupsOk := hs.setLane lacks nofun
    exact (KeepsGroups.activate (cleared.report _ _) lacks rfl).groups.settle s
  · exact hs.report ..

/-! ### The resets and the register writes -/

/-- Groups that hold no lane. -/
theorem State.groupsOk_of_empty (empty : ∀ g, (s.group g).arrived = 0) : s.GroupsOk :=
  s.groupsOk_iff.2 fun g _ hn => absurd (empty g) (LaneSet.ne_zero_of_has hn)

theorem softResetAll_groupsOk (s : State) : (softResetAll s).GroupsOk :=
  State.groupsOk_of_empty fun g => congrArg Group.arrived (PerGroup.get_build _ g)

theorem hardReset_groups (s : State) : (hardReset s).groups = PerGroup.build fun _ => resetGroup :=
  rfl

theorem State.groupsOk_of_reset (reset : s.groups = PerGroup.build fun _ => resetGroup) :
    s.GroupsOk :=
  State.groupsOk_of_empty fun g => by rw [State.group, reset, PerGroup.get_build]; rfl

theorem writeMembers_groupsOk (g : GroupId) (w : Word) (hs : s.GroupsOk) :
    (writeMembers g w s).GroupsOk := by
  unfold writeMembers
  split
  · next empty =>
    have written : (s.setGroup g { s.group g with members := w.extractLsb' 0 6 }).GroupsOk := by
      refine hs.of_held fun k n hn => ?_
      by_cases hk : k = g
      · rw [hk, State.group_setGroup_self] at hn
        exact absurd empty (LaneSet.ne_zero_of_has hn)
      · rw [State.group_setGroup_ne _ _ hk] at hn ⊢
        exact ⟨hn, rfl, id, fun _ _ => id⟩
    exact written.report ..
  · exact hs.report ..

theorem Lane.openGate_keepsHold (x : CarrierId) (l : Lane) : l.KeepsHold (l.openGate x) := by
  unfold Lane.openGate
  split <;> exact ⟨fun _ => id, id⟩

theorem Lane.endTrail_keepsHold (x : CarrierId) (l : Lane) : l.KeepsHold (l.endTrail x) := by
  unfold Lane.endTrail
  split <;> exact ⟨fun _ => id, id⟩

theorem Lane.shutGate_keepsHold (x : CarrierId) (l : Lane) : l.KeepsHold (l.shutGate x) := by
  unfold Lane.shutGate
  split <;> exact ⟨fun _ => id, id⟩

theorem writeCarCtrl_groupsOk (x : CarrierId) (w : Word) (hs : s.GroupsOk) :
    (writeCarCtrl x w s).GroupsOk := by
  unfold writeCarCtrl
  dsimp only
  split
  · split
    · split
      · exact hs.of_same rfl rfl
      · exact hs.build (f := fun _ l => (l.shutGate x).endTrail x) rfl rfl
          fun _ l => (l.shutGate_keepsHold x).trans (Lane.endTrail_keepsHold ..)
    · exact hs.of_same rfl rfl
  · split
    · exact hs.build rfl rfl fun _ => Lane.openGate_keepsHold x
    · exact hs.of_same rfl rfl

theorem writePmem_groupsOk (w : Word) (hs : s.GroupsOk) : (writePmem w s).GroupsOk := by
  unfold writePmem
  split
  · exact hs.of_same rfl rfl
  · exact hs.build (f := fun _ => Lane.keepWord s.ptr.addr (s.pmem.read s.ptr.addr)) rfl rfl
      fun _ _ => ⟨fun _ => id, id⟩

theorem writeLaneCfg_groupsOk (n : LaneId) (w : Word) (hs : s.GroupsOk) :
    (writeLaneCfg n w s).GroupsOk := by
  have stored (c : LaneCfg) (x : Option CarrierId) :
      (s.setLane n { s.lane n with cfg := c, trail := x }).GroupsOk :=
    hs.setLane_keeps ⟨fun _ => id, id⟩
  unfold writeLaneCfg
  dsimp only
  split
  · exact hs.of_same rfl rfl
  · exact hs.of_same rfl rfl
  · exact hs.of_same rfl rfl
  all_goals
    split
    · exact hs.of_same rfl rfl
    · exact (stored _ _).report ..

/-- A deferred record that is placed leaves its AWAIT_POST slot. -/
theorem placeDeferred_groupsOk (hs : s.GroupsOk) : (placeDeferred s).GroupsOk := by
  unfold placeDeferred
  split
  · exact hs
  · next n rest _ =>
    dsimp only
    split
    · exact hs.of_same rfl rfl
    · next held more _ =>
      have freed : (s.setLane n { s.lane n with queue := { (s.lane n).queue with
          awaiting := more } }).GroupsOk := hs.setLane_keeps ⟨fun _ => id, id⟩
      exact freed.of_same rfl rfl
  · split <;> exact hs.of_same rfl rfl

theorem popEvent_groupsOk (hs : s.GroupsOk) : (popEvent s).GroupsOk := by
  unfold popEvent
  split
  · exact hs.report ..
  · next r rest _ =>
    have popped : State.GroupsOk { s with evq := { s.evq with placed := rest } } :=
      hs.of_same rfl rfl
    exact (placeDeferred_groupsOk popped).report ..

theorem writeGlobalCmd_groupsOk (w : Word) (hs : s.GroupsOk) : (writeGlobalCmd w s).GroupsOk := by
  refine writeGlobalCmd_cases (P := State.GroupsOk) w (fun _ => hs.report ..)
    (softResetAll_groupsOk s) ?_ ?_ ?_ (hs.of_same rfl rfl)
  · unfold useInternal
    dsimp only
    split <;> exact hs.of_same rfl rfl
  · unfold useExternal
    dsimp only
    split <;> exact hs.of_same rfl rfl
  · unfold rearm
    split <;> exact hs.of_same rfl rfl

theorem writeLaneCmd_groupsOk (op : BitVec 4) (lane : BitVec 3) (hs : s.GroupsOk) :
    (writeLaneCmd op lane s).GroupsOk :=
  writeLaneCmd_cases (P := State.GroupsOk) op lane (fun _ => hs.report ..)
    (fun n => submitTo_groupsOk n hs) (fun n => stopAtEnd_groupsOk n hs)
    (fun n => spliceLane_groupsOk n hs) (fun n => abortLane_groupsOk n hs)
    (fun n => clearFaultOf_groupsOk n hs)

theorem writeReg_groupsOk (r : Reg) (w : Word) (hs : s.GroupsOk) : (writeReg r w s).GroupsOk := by
  cases r with
  | globalCmd => exact writeGlobalCmd_groupsOk w hs
  | laneCmd => exact writeLaneCmd_groupsOk _ _ hs
  | pmemData => exact writePmem_groupsOk w hs
  | groupMembers g => exact writeMembers_groupsOk g w hs
  | carCtrl x => exact writeCarCtrl_groupsOk x w hs
  | laneCfg n => exact writeLaneCfg_groupsOk n w hs
  | evqPop => exact popEvent_groupsOk hs
  | tbDiv d => cases d <;> exact hs.of_same rfl rfl
  | carWidth x =>
    unfold writeReg writeCarWidth
    dsimp only
    split <;> exact hs.of_same rfl rfl
  | inCfg i =>
    unfold writeReg writeInCfg
    dsimp only
    split <;> exact hs.of_same rfl rfl
  | capqPop =>
    unfold writeReg popCapture
    dsimp only
    split <;> exact hs.of_same rfl rfl
  | _ => exact hs.of_same rfl rfl

theorem readAt_groups (i : Index) (s : State) : (readAt i s).groups = s.groups := by
  unfold readAt
  split
  · rfl
  · unfold readPmem
    split <;> rfl
  · rfl

theorem cutWord_groups (cut : Cut) (s : State) : (cutWord cut s).groups = s.groups := by
  unfold cutWord
  split
  · rfl
  · rfl
  · split
    · rfl
    · split <;> rfl
    · rfl

/-! ### The events of the lines and the timebase -/

/-- A trigger satisfies waits on its line and meets ON_TRIGGER starts, and no others (R54, R81). -/
theorem Lane.trigger_keepsHold (i : LineId) (l : Lane) : l.KeepsHold (l.trigger i) := by
  unfold Lane.trigger
  split
  · next waiting =>
    split
    · next line =>
      refine ⟨fun g held => ?_, id⟩
      rcases held with ⟨-, source, -⟩ | ⟨armed, -⟩
      · exact nomatch line.symm.trans source
      · exact nomatch waiting.symm.trans armed
    · exact .refl l
  · next a armed active =>
    split
    · next line =>
      refine ⟨fun g held => ?_, id⟩
      rcases held with ⟨waiting, -⟩ | ⟨-, b, active', start, -⟩
      · exact nomatch armed.symm.trans waiting
      · obtain rfl : a = b := Option.some.inj (active.symm.trans active')
        exact nomatch line.symm.trans start
    · exact .refl l
  · exact .refl l

theorem offerCapture_groups (r : CaptureRecord) (s : State) :
    (offerCapture r s).groups = s.groups := by
  rcases offerCapture_cases r s with ⟨-, h⟩ | ⟨-, h⟩ <;> rw [h]

theorem acceptEdge_groupsOk (i : LineId) (e : Edge) (hs : s.GroupsOk) :
    (acceptEdge i e s).GroupsOk := by
  have triggered :
      (if (s.input i).trigger.holds e then deliverTrigger i s else s).GroupsOk := by
    split
    · exact hs.build rfl rfl fun _ => Lane.trigger_keepsHold i
    · exact hs
  unfold acceptEdge
  dsimp only
  split
  · exact triggered.of_same (offerCapture_groups ..) (offerCapture_lanes ..)
  · exact triggered

theorem takeSample_groupsOk (i : LineId) (hs : s.GroupsOk) : (takeSample i s).GroupsOk := by
  unfold takeSample
  dsimp only
  split
  · split
    · exact hs.of_same rfl rfl
    · split
      · exact acceptEdge_groupsOk i _ (hs.of_same rfl rfl)
      · exact hs.of_same rfl rfl
  · split <;> exact hs.of_same rfl rfl

theorem tickEnds_groupsOk (hs : s.GroupsOk) : (tickEnds s).GroupsOk :=
  hs.build (f := fun _ l => { l with
    boundaryTaken := false, ownDue := true, sinceBoundary := false, sight := none }) rfl rfl
    fun _ _ => ⟨fun _ => id, id⟩

theorem boundaryEdge_groups (s : State) : (boundaryEdge s).groups = s.groups := by
  unfold boundaryEdge
  split <;> rfl

theorem lockNow_groups (s : State) : (lockNow s).groups = s.groups := recordTimebase_groups ..

theorem monitorEdge_groups (s : State) : (monitorEdge s).groups = s.groups := by
  unfold monitorEdge
  split
  · split
    · exact lockNow_groups s
    · rfl
  · split
    · exact lockNow_groups s
    · rfl
  all_goals rfl

theorem tickEdge_groupsOk (hs : s.GroupsOk) : (tickEdge s).GroupsOk := by
  unfold tickEdge
  split
  · split
    · exact tickEnds_groupsOk hs
    · exact hs.of_same rfl rfl
  · exact hs

/-- The lanes of a loss leave their groups, the breaks are taken, and the lanes of both fault (R36,
R123). -/
theorem faultForLoss_groupsOk (hs : s.GroupsOk) : (faultForLoss s).GroupsOk := by
  have departed : ((lossFaults s).foldl (fun t n => depart n t) s).GroupsOk :=
    List.foldlRecOn (motive := State.GroupsOk) _ _ hs fun _ h n _ => h.depart n
  refine ((departed.breakBarriers (lossFaults s)).foldl_enterFault fun t n _ => ?_).1
  split
  · next lost => exact .inr ⟨breakBarriers_clearOf (.inl lost), _, rfl⟩
  · split
    · next broken => exact .inr ⟨breakBarriers_clearOf (.inr broken), _, rfl⟩
    · exact .inl rfl

theorem detectLoss_groupsOk (hs : s.GroupsOk) : (detectLoss s).GroupsOk := by
  unfold detectLoss
  split
  · exact hs.of_same rfl rfl
  · exact hs.of_same rfl rfl
  · have lost (v : Timebase) : State.GroupsOk { s with tb := v } := hs.of_same rfl rfl
    exact (faultForLoss_groupsOk (lost _)).recordTimebase ..
  · exact hs
  · exact hs

end

/-! ### Every step -/

theorem CommandEffect.groupsOk {s t : State} (h : CommandEffect s t) (hs : s.GroupsOk) :
    t.GroupsOk := by
  cases h with
  | nothing => exact hs
  | written i r w =>
    exact writeReg_groupsOk r w (s := s.advanceFrame .write i) (hs.of_same rfl rfl)
  | laneCommanded op lane =>
    exact writeLaneCmd_groupsOk op lane (s := s.advanceFrame .write _) (hs.of_same rfl rfl)
  | wordRead i => exact hs.of_same (readAt_groups i _) (readAt_lanes i _)
  | frameCut cut => exact hs.of_same (cutWord_groups cut s) (cutWord_lanes cut s)
  | poweredUp m => exact State.groupsOk_of_reset (hardReset_groups s)
  | released => exact State.groupsOk_of_reset (hardReset_groups s)
  | laneActed h => exact laneEvent_groupsOk hs h
  | tickEnded => exact tickEnds_groupsOk (hs.of_same (boundaryEdge_groups s) (boundaryEdge_lanes s))
  | edge => exact tickEdge_groupsOk (hs.of_same (monitorEdge_groups s) (monitorEdge_lanes s))
  | locked => exact hs.of_same (lockNow_groups s) (lockNow_lanes s)
  | lossDetected => exact (detectLoss_groupsOk hs).settle s
  | highPhaseEnded x => exact hs.build rfl rfl fun _ => Lane.endTrail_keepsHold x
  | periodEnded x => exact hs.build rfl rfl fun _ => Lane.openGate_keepsHold x
  | sampled i => exact takeSample_groupsOk i hs
  | unmapped | frameHeld | frameBegun | frameEnded | held | cleared | pinChanged =>
    exact hs.of_same rfl rfl

theorem clockStep_groups (s : State) : (clockStep s).groups = s.groups := by
  unfold clockStep countPeriod
  dsimp only
  split
  · split <;> rfl
  · rfl

/-- Settles O59: a lane acts only where no group holds it, or departs first; a group takes a lane
only behind its checks; and a fault empties every group it breaks. -/
theorem stepsKeepTheGroups : Obligations.StepsKeepTheGroups := by
  intro s t hs h
  rcases step_effect h with ⟨c, rest, -, effect⟩ | rfl
  · exact effect.groupsOk (hs.of_same rfl rfl)
  · exact hs.of_same (clockStep_groups s) (clockStep_lanes s)

end Sys2Proof.Machine
end

/-! ## Input lines: INn_CFG, pins and samples (R126 to R131, R176) -/

section
namespace Sys2Proof.Machine

/-! ### The line a sample leaves (R127, R128) -/

/-- The line behind a sample that accepts its level: the level is the accepted one, and the run is
over (R128). -/
def InputLine.accepting (l : InputLine) : InputLine :=
  { l with sampleCount := 0, accepted := some l.pin, runLevel := l.pin, runCount := 0 }

/-- The line behind a sample that goes into a run of its level and accepts nothing (R127). -/
def InputLine.running (l : InputLine) : InputLine :=
  { l with sampleCount := 0, runLevel := l.pin, runCount := l.runAfter }

section
variable {i : LineId} {s : State} {l : InputLine} {v : Level}

theorem InputLine.runAfter_of_opposite (acc : l.accepted = some v) (ne : v ≠ l.pin) :
    l.runAfter = l.runCount + 1 := by
  simp only [InputLine.runAfter, acc, if_neg ne.symm]

theorem InputLine.runAfter_of_unsettled (acc : l.accepted = none) :
    l.runAfter = if l.pin = l.runLevel ∨ l.runCount = 0 then l.runCount + 1 else 1 := by
  simp only [InputLine.runAfter, acc]

/-! ### A sample, by the accepted level and the run it leaves (R127 to R129) -/

theorem takeSample_of_equal (acc : (s.input i).accepted = some (s.input i).pin) :
    takeSample i s = s.setInput i { s.input i with sampleCount := 0, runCount := 0 } := by
  simp only [takeSample, acc, if_true]

theorem takeSample_of_opposite (acc : (s.input i).accepted = some v) (ne : v ≠ (s.input i).pin) :
    takeSample i s =
      if (s.input i).f ≤ (s.input i).runAfter then
        acceptEdge i (edgeTo (s.input i).pin) (s.setInput i (s.input i).accepting)
      else s.setInput i (s.input i).running := by
  simp only [takeSample, acc, if_neg ne.symm, InputLine.accepting, InputLine.running]

theorem takeSample_of_unsettled (acc : (s.input i).accepted = none) :
    takeSample i s =
      if (s.input i).f ≤ (s.input i).runAfter then s.setInput i (s.input i).accepting
      else s.setInput i (s.input i).running := by
  simp only [takeSample, acc, InputLine.accepting, InputLine.running]

theorem exec_sample_of_high (hr : s.port.rstnLow = false) :
    exec (.sample i) s = .next (takeSample i s) :=
  congrArg Host.Outcome.next (unlessHeld_of_high hr _)

end

/-- Settles O51: the accepted level says whether the sample goes into a run, and the run whether it
is the F-th sample. -/
theorem inputPinsAndSamples : Obligations.InputPinsAndSamples := by
  refine ⟨fun i v s => rfl, ?_⟩
  intro i s hr l flip
  have edge : edgeTo l.pin = flip := rfl
  rw [exec_sample_of_high hr]
  refine ⟨fun acc => ?_, fun v acc ne short => ?_, fun v acc ne full => ?_, fun acc => ?_⟩
  · rw [takeSample_of_equal acc]
  · have run : l.runAfter = l.runCount + 1 := InputLine.runAfter_of_opposite acc ne
    rw [takeSample_of_opposite acc ne, if_neg (run ▸ short.not_ge), InputLine.running, run]
  · have run : l.runAfter = l.runCount + 1 := InputLine.runAfter_of_opposite acc ne
    rw [takeSample_of_opposite acc ne, if_pos (run ▸ full), edge, InputLine.accepting]
  · intro k
    have run : l.runAfter = k := InputLine.runAfter_of_unsettled acc
    rw [takeSample_of_unsettled acc]
    refine ⟨fun short => ?_, fun full => ?_⟩
    · rw [if_neg (run ▸ short.not_ge), InputLine.running, run]
    · rw [if_pos (run ▸ full), InputLine.accepting]

/-! ### INn_CFG (R131, R176) -/

theorem code_edgeSetOf (c : BitVec 2) : (edgeSetOf c).code = c := by
  revert c
  decide

theorem Reg.inCfg_index (n : LineId) : (Reg.inCfg n).index = BitVec.ofNat 7 (0x20 + n.num) := rfl

/-- The line with the five settings of an INn_CFG word (R176). -/
def InputLine.configured (l : InputLine) (w : Word) : InputLine :=
  { l with
    filter := w.extractLsb' 0 3, divider := w.extractLsb' 4 3
    trigger := edgeSetOf (w.extractLsb' 8 2), capture := edgeSetOf (w.extractLsb' 10 2)
    tagCode := w.extractLsb' 12 3 }

section
variable {n : LineId} {w : Word} {s : State}

theorem writeInCfg_of_same
    (same : w.extractLsb' 0 3 = (s.input n).filter ∧ w.extractLsb' 4 3 = (s.input n).divider) :
    writeInCfg n w s = s.setInput n ((s.input n).configured w) :=
  if_pos same

theorem writeInCfg_of_changed
    (changed : ¬(w.extractLsb' 0 3 = (s.input n).filter ∧
      w.extractLsb' 4 3 = (s.input n).divider)) :
    writeInCfg n w s =
      s.setInput n { (s.input n).configured w with sampleCount := 0, runCount := 0 } :=
  if_neg changed

theorem exec_inCfg_of_listens (h : s.portListens = true) :
    exec (.inCfg n w) s = .next (writeInCfg n w (s.wordAt .write (Reg.inCfg n).index)) :=
  congrArg Host.Outcome.next (hostWord_of_listens h ..)

end

/-- Settles O22: the write on the state behind its frame's advance, whose lines are the same, by
whether the word keeps the filter count and the divider. -/
theorem inputCfgWrite : Obligations.InputCfgWrite := by
  intro n w s h i l same
  refine ⟨edgeSetOf (w.extractLsb' 8 2), edgeSetOf (w.extractLsb' 10 2), code_edgeSetOf _,
    code_edgeSetOf _, ?_⟩
  have line : (s.wordAt .write i).input n = l := rfl
  rw [exec_inCfg_of_listens h, Reg.inCfg_index]
  by_cases keeps : same
  · rw [writeInCfg_of_same (s := s.wordAt ..) keeps, line, if_pos keeps, if_pos keeps]
    rfl
  · rw [writeInCfg_of_changed (s := s.wordAt ..) keeps, line, if_neg keeps, if_neg keeps]
    rfl

end Sys2Proof.Machine
end

/-! ## Record words, and the commands of the Capture Queue (R140 to R144, R146, R155, R179, R180) -/

section
namespace Sys2Proof.Machine

/-! ### The words the head registers show -/

theorem State.eventHead_of_cons {s : State} {r : EventRecord} {rest : List EventRecord}
    (h : s.evq.placed = r :: rest) (word : EventRecord → Word) : s.eventHead word = word r := by
  simp only [State.eventHead, h]

theorem State.captureHead_of_cons {s : State} {r : CaptureRecord} {rest : List CaptureRecord}
    (h : s.capq.records = r :: rest) (word : CaptureRecord → Word) :
    s.captureHead word = word r := by
  simp only [State.captureHead, h]

/-! ### Codes of R179 and R180 -/

/-- A lane's number is its code in a field of three bits or more. -/
theorem LaneId.toNat_ofNat_num (n : LaneId) {w : Nat} (h : 3 ≤ w) :
    (BitVec.ofNat w n.num).toNat = n.num := by
  have room : 2 ^ 3 ≤ 2 ^ w := Nat.pow_le_pow_right (by decide) h
  rw [BitVec.toNat_ofNat, Nat.mod_eq_of_lt (by have := LaneId.num_lt n; omega)]

theorem LineId.toNat_ofNat_num (i : LineId) : (BitVec.ofNat 2 i.num).toNat = i.num := by
  cases i <;> rfl

theorem GroupId.toNat_source (g : GroupId) : (BitVec.ofNat 4 (9 + g.num)).toNat = 9 + g.num := by
  cases g <;> rfl

theorem DoneFields.late_iff (d : DoneFields) : d.late = true ↔ d.lateness ≠ 0 :=
  decide_eq_true_iff

theorem EventBody.length_done (n : LaneId) (tag : Tag) (d : DoneFields) :
    (EventBody.done n tag d).length = if d.lateness = 0 then 3 else 4 := by
  by_cases h : d.lateness = 0 <;> simp [EventBody.length, DoneFields.late, h]

/-! ### The fields of the words -/

/-- The header of an event record, field by field (R146, R179). -/
theorem EventRecord.word0_fields (r : EventRecord) :
    r.word0.extractLsb' 28 4 = r.body.kind ∧ r.word0.extractLsb' 24 4 = r.body.source ∧
      r.word0.extractLsb' 19 5 = 0 ∧ r.word0.extractLsb' 16 3 = r.body.length ∧
      r.word0.extractLsb' 8 8 = r.droppedBefore ∧ r.word0.extractLsb' 0 8 = r.body.tag := by
  refine ⟨FieldAt.extract ?_, FieldAt.extract ?_, FieldAt.extract (f := 0#5) ?_,
    FieldAt.extract ?_, FieldAt.extract ?_, FieldAt.extract ?_⟩
  all_goals repeat constructor

/-- Word 2 of a DONE record, field by field (R95, R179). -/
theorem EventRecord.word2_done_fields (time : Time) (dropped : BitVec 8) (n : LaneId) (tag : Tag)
    (d : DoneFields) :
    let w := EventRecord.word2 ⟨time, dropped, .done n tag d⟩
    w.extractLsb' 0 16 = d.passes ∧ w.getLsbD 16 = d.stopped ∧ w.getLsbD 17 = d.spliced ∧
      w.getLsbD 18 = d.late ∧ w.getLsbD 19 = d.holdover := by
  refine ⟨FieldAt.extract ?_, FieldAt.flag ?_, FieldAt.flag ?_, FieldAt.flag ?_, FieldAt.flag ?_⟩
  all_goals repeat constructor

/-- Word 0 of a capture record, field by field (R136, R180). -/
theorem CaptureRecord.word0_fields (r : CaptureRecord) :
    r.word0.extractLsb' 0 2 = r.edge.code ∧ r.word0.extractLsb' 4 2 = BitVec.ofNat 2 r.line.num ∧
      r.word0.getLsbD 6 = r.holdover ∧ r.word0.getLsbD 7 = r.snapshot.isSome ∧
      r.word0.extractLsb' 8 8 = r.phase ∧ r.word0.extractLsb' 16 8 = r.gap := by
  refine ⟨FieldAt.extract ?_, FieldAt.extract ?_, FieldAt.flag ?_, FieldAt.flag ?_,
    FieldAt.extract ?_, FieldAt.extract ?_⟩
  all_goals repeat constructor

/-- Word 2 of a tagged capture record, field by field (R134, R180). -/
theorem CaptureRecord.word2_fields {r : CaptureRecord} {p : Snapshot} (h : r.snapshot = some p) :
    r.word2.extractLsb' 0 3 = BitVec.ofNat 3 p.lane.num ∧ r.word2.extractLsb' 8 12 = p.addr ∧
      r.word2.extractLsb' 24 8 = p.tag ∧ r.word2.extractLsb' 4 3 = p.state.code := by
  simp only [CaptureRecord.word2, h]
  refine ⟨FieldAt.extract ?_, FieldAt.extract ?_, FieldAt.extract ?_, FieldAt.extract ?_⟩
  all_goals repeat constructor

/-- The fault cause LANEn_STATUS shows (R176). -/
theorem readReg_laneStatus_cause (s : State) (n : LaneId) :
    (readReg (.laneStatus n) s).extractLsb' 16 4 = causeCode (s.lane n).cause :=
  FieldAt.extract (by repeat constructor)

/-- Settles O26: the words at the heads are those of the head records, and each of their fields is
the part standing at its position among those the word is put together from. -/
theorem recordWordsAtTheHeads : Obligations.RecordWordsAtTheHeads := by
  refine ⟨fun s r rest h => ?_, fun s n => ?_, fun s r rest h => ?_⟩
  · intro w0 w2 w3
    have head0 : w0 = r.word0 := s.eventHead_of_cons h _
    have head1 : readReg .evqHead1 s = r.time := s.eventHead_of_cons h _
    have head2 : w2 = r.word2 := s.eventHead_of_cons h _
    have head3 : w3 = r.word3 := s.eventHead_of_cons h _
    obtain ⟨kind, source, unnamed, length, dropped, tag⟩ := r.word0_fields
    have lane {n : LaneId} (h : r.body.source = BitVec.ofNat 4 n.num) :
        (r.word0.extractLsb' 24 4).toNat = n.num := by
      rw [source, h, LaneId.toNat_ofNat_num n (by decide)]
    rw [head0, head1, head2, head3]
    refine ⟨rfl, dropped, unnamed, ?_⟩
    obtain ⟨time, droppedBefore, body⟩ := r
    cases body with
    | done n t d =>
      obtain ⟨passes, stopped, spliced, late, holdover⟩ :=
        EventRecord.word2_done_fields time droppedBefore n t d
      exact ⟨kind, lane rfl, tag, length.trans (EventBody.length_done n t d), passes, stopped,
        spliced, late ▸ d.late_iff, holdover, FieldAt.extract (by repeat constructor)⟩
    | aborted n t passes reason addr =>
      refine ⟨kind, lane rfl, tag, length, FieldAt.extract (by repeat constructor),
        FieldAt.extract (by repeat constructor), rfl,
        (FieldAt.extract (f := reason.code) (by repeat constructor)).trans ?_⟩
      cases reason with
      | hostAbort => rfl
      | flushed => rfl
      | fault c => cases c <;> rfl
    | mark n t addr =>
      exact ⟨kind, lane rfl, tag, length, FieldAt.extract (by repeat constructor), rfl⟩
    | waitTimeout n t addr src =>
      refine ⟨kind, lane rfl, tag, length, FieldAt.extract (by repeat constructor), rfl,
        (FieldAt.extract (f := sourceCode src) (by repeat constructor)).trans ?_⟩
      cases src with
      | line i => cases i <;> rfl
      | group g => cases g <;> rfl
    | groupReleased g lanes count =>
      exact ⟨kind, (congrArg BitVec.toNat source).trans (GroupId.toNat_source g), tag, length,
        FieldAt.extract (by repeat constructor), FieldAt.extract (by repeat constructor), rfl⟩
    | timebase st losses locks =>
      refine ⟨kind, source, tag, length, FieldAt.extract (by repeat constructor),
        FieldAt.extract (by repeat constructor), rfl,
        (FieldAt.extract (f := st.code) (by repeat constructor)).trans ?_⟩
      cases st <;> rfl
  · rw [readReg_laneStatus_cause]
    cases (s.lane n).cause with
    | none => rfl
    | some c => cases c <;> rfl
  · intro w0 w2
    have head0 : w0 = r.word0 := s.captureHead_of_cons h _
    have head1 : readReg .capqHead1 s = r.time := s.captureHead_of_cons h _
    have head2 : w2 = r.word2 := s.captureHead_of_cons h _
    rw [head0, head1, head2]
    obtain ⟨edge, line, holdover, tagged, phase, gap⟩ := r.word0_fields
    refine ⟨edge.trans (by cases r.edge <;> rfl),
      (congrArg BitVec.toNat line).trans (LineId.toNat_ofNat_num _), holdover, tagged, phase, gap,
      rfl, ?_⟩
    split
    next untagged => simp only [CaptureRecord.word2, untagged]
    next p taken =>
      obtain ⟨lane, addr, tag, state⟩ := CaptureRecord.word2_fields taken
      exact ⟨(congrArg BitVec.toNat lane).trans (LaneId.toNat_ofNat_num _ le_rfl), addr, tag,
        state.trans (by cases p.state <;> rfl)⟩

/-! ### CAPQ_POP and CAPQ_FLUSH (R141, R144) -/

theorem popCapture_of_nil {s : State} (h : s.capq.records = []) :
    popCapture s = s.report .empty 0x2C := by
  simp only [popCapture, h]
  rfl

theorem popCapture_of_cons {s : State} {r : CaptureRecord} {rest : List CaptureRecord}
    (h : s.capq.records = r :: rest) :
    popCapture s = { s.report .ok 0x2C with capq := { s.capq with records := rest } } := by
  simp only [popCapture, h]
  rfl

theorem exec_capqPop_of_listens {s : State} (h : s.portListens = true) (w : Word) :
    exec (.capqPop w) s = .next (popCapture (s.wordAt .write 0x2C)) :=
  congrArg Host.Outcome.next (hostWord_of_listens h ..)

/-- Settles O23: the pop by whether the queue, which the frame's advance leaves as it is, has a head;
the flush is the command's own effect outside INIT. -/
theorem captureQueueCommands : Obligations.CaptureQueueCommands := by
  refine ⟨fun w s h => ?_, fun s h hi =>
    congrArg Host.Outcome.next (hostWord_globalCommand h hi flushCapture)⟩
  rw [exec_capqPop_of_listens h]
  exact ⟨fun empty => congrArg _ (popCapture_of_nil (s := s.wordAt ..) empty),
    fun _ _ head => congrArg _ (popCapture_of_cons (s := s.wordAt ..) head)⟩

end Sys2Proof.Machine
end

/-! ## The part held in reset, and EVQ_POP (R150, R154, R156, R160, R172) -/

section
namespace Sys2Proof.Machine

/-! ### While RSTN is held low (R160, R172) -/

section
variable {s : State} (h : s.port.rstnLow = true)
include h

theorem State.portListens_of_low : s.portListens = false := by
  simp only [State.portListens, h, Bool.not_true, Bool.false_and]

theorem State.sdoHighz_of_low : s.sdoHighz = true := by
  simp only [State.sdoHighz, h, Bool.true_or]

theorem State.irqnLow_of_low : s.irqnLow = false := by
  simp only [State.irqnLow, h, Bool.not_true, Bool.false_and]

theorem exec_frameStart_of_low :
    exec .frameStart s = .next { s with port := { s.port with csnLow := true } } :=
  if_pos h

/-- The port has no word of a cut frame to judge: CSN rises and that is all. -/
theorem exec_shortFrame_of_low (cut : Cut) : exec (.shortFrame cut) s = .next (endCutFrame s) := by
  have deaf := State.portListens_of_low h
  simp only [exec, execShortFrame, deaf, Bool.false_eq_true, if_false]

/-- A command is a data word, which the deaf port does not take; an event of the timebase, the
carriers or the lines is one `unlessHeld` shuts out; and a lane's own event asks for RSTN itself. -/
theorem exec_of_low {c : Instr} (por : c ≠ .por) (initClear : c ≠ .initClear)
    (rstnAssert : c ≠ .rstnAssert) (rstnReset : c ≠ .rstnReset) (frameStart : c ≠ .frameStart)
    (frameEnd : c ≠ .frameEnd) (shortFrame : ∀ cut, c ≠ .shortFrame cut)
    (inPinChange : ∀ i v, c ≠ .inPinChange i v) : exec c s = .next s := by
  have word {d : Direction} {i : Index} {f : State → State} :
      (.next (hostWord d i f s) : Host.Outcome State Fault Refusal) = .next s :=
    congrArg _ (hostWord_of_deaf (State.portListens_of_low h) d i f)
  have event {f : State → State} :
      (.next (unlessHeld f s) : Host.Outcome State Fault Refusal) = .next s :=
    congrArg _ (unlessHeld_of_low h f)
  cases c with
  | por => exact absurd rfl por
  | initClear => exact absurd rfl initClear
  | rstnAssert => exact absurd rfl rstnAssert
  | rstnReset => exact absurd rfl rstnReset
  | frameStart => exact absurd rfl frameStart
  | frameEnd => exact absurd rfl frameEnd
  | shortFrame cut => exact absurd rfl (shortFrame cut)
  | inPinChange i v => exact absurd rfl (inPinChange i v)
  | badIndex dir => cases dir <;> exact word
  | readOnlyWrite | registerWrite | pmemDataWrite | pmemDataRead | tbTrim | intStatus | intEnable
  | laneCfg | groupMembers | carCtrl | carWidth | inCfg | capqStatus | capqPop | evqPop
  | softReset | tbUseInternal | tbUseExternal | tbRearm | capqFlush
  | submit | stopAtEnd | splice | abort | clearFault | laneCmdBadCommand => exact word
  | tickBoundary | highPhaseEnd | periodEnd | refinEdge | lock | lossDetected | sample =>
    exact event
  | laneBoundary => exact if_pos h
  | holdEnd | timeoutExpiry | waitSatisfied | launchStart | spliceLanding =>
    exact if_pos (.inl h)

end

/-- Settles O10: the port is deaf, no event is taken, and both pins are released. -/
theorem heldPartTakesNoEvent : Obligations.HeldPartTakesNoEvent :=
  ⟨fun _ _ h => exec_of_low h, fun _ h =>
    ⟨State.sdoHighz_of_low h, State.irqnLow_of_low h, exec_frameStart_of_low h,
      exec_shortFrame_of_low h⟩⟩

/-! ### EVQ_POP (R150, R154, R156) -/

/-- The state with other records placed in its Event Queue: those behind the head, once a pop has
taken it, and the place is free for a deferred one (R154). -/
def State.withPlaced (s : State) (rs : List EventRecord) : State :=
  { s with evq := { s.evq with placed := rs } }

section
variable {s : State}

theorem placeDeferred_of_nil (noneWaits : s.evq.deferral = []) : placeDeferred s = s := by
  simp only [placeDeferred, noneWaits]

/-- The first deferred record is a lane's: its oldest AWAIT_POST slot leaves the lane's queue. -/
theorem placeDeferred_of_lane {n : LaneId} {more : List DeferralEntry} {held : HeldSlot}
    {slots : List HeldSlot} (first : s.evq.deferral = .lane n :: more)
    (oldest : (s.lane n).queue.awaiting = held :: slots) :
    placeDeferred s =
      { s.setLane n { s.lane n with queue := { (s.lane n).queue with awaiting := slots } } with
        evq := { s.evq with deferral := more }.place held.record } := by
  simp only [placeDeferred, first, oldest]

/-- The first deferred record is the timebase's: it ceases to be pending. -/
theorem placeDeferred_of_timebase {more : List DeferralEntry} {b : TimebaseRecord}
    (first : s.evq.deferral = .timebase :: more) (waits : s.tb.record = some b) :
    placeDeferred s =
      { s with
        tb := { s.tb with record := none }
        evq := { s.evq with deferral := more }.place b.event } := by
  simp only [placeDeferred, first, waits]

theorem popEvent_of_nil (empty : s.evq.placed = []) : popEvent s = s.report .empty 0x35 := by
  simp only [popEvent, empty]
  rfl

section
variable {r : EventRecord} {rest : List EventRecord} (head : s.evq.placed = r :: rest)
include head

theorem popEvent_of_cons :
    popEvent s = (placeDeferred (s.withPlaced rest)).report .ok 0x35 := by
  simp only [popEvent, head]
  rfl

theorem popEvent_of_noneDeferred (noneWaits : s.evq.deferral = []) :
    popEvent s = (s.report .ok 0x35).withPlaced rest := by
  rw [popEvent_of_cons head, placeDeferred_of_nil (s := s.withPlaced rest) noneWaits]
  rfl

theorem popEvent_of_laneDeferred {n : LaneId} {more : List DeferralEntry} {held : HeldSlot}
    {slots : List HeldSlot} (first : s.evq.deferral = .lane n :: more)
    (oldest : (s.lane n).queue.awaiting = held :: slots) :
    popEvent s =
      { (s.report .ok 0x35).setLane n
          { s.lane n with queue := { (s.lane n).queue with awaiting := slots } } with
        evq := { s.evq with placed := rest, deferral := more }.place held.record } := by
  rw [popEvent_of_cons head, placeDeferred_of_lane (s := s.withPlaced rest) first oldest]
  rfl

theorem popEvent_of_timebaseDeferred {more : List DeferralEntry} {b : TimebaseRecord}
    (first : s.evq.deferral = .timebase :: more) (waits : s.tb.record = some b) :
    popEvent s =
      { s.report .ok 0x35 with
        tb := { s.tb with record := none }
        evq := { s.evq with placed := rest, deferral := more }.place b.event } := by
  rw [popEvent_of_cons head, placeDeferred_of_timebase (s := s.withPlaced rest) first waits]
  rfl

end

theorem exec_evqPop_of_listens (h : s.portListens = true) (w : Word) :
    exec (.evqPop w) s = .next (popEvent (s.wordAt .write 0x35)) :=
  congrArg Host.Outcome.next (hostWord_of_listens h ..)

end

/-- Settles O24: the pop, on the state behind the frame's advance, whose queues are the same, by
whether the queue has a head and by the first deferral entry. -/
theorem eventQueuePop : Obligations.EventQueuePop := by
  intro w s h s1
  rw [exec_evqPop_of_listens h]
  refine ⟨fun empty => ?_, fun r rest head noneWaits => ?_,
    fun r rest n more held slots head first oldest => ?_,
    fun r rest more b head first waits => ?_⟩
  · exact congrArg _ (popEvent_of_nil (s := s.wordAt ..) empty)
  · exact congrArg _ (popEvent_of_noneDeferred (s := s.wordAt ..) head noneWaits)
  · exact congrArg _ (popEvent_of_laneDeferred (s := s.wordAt ..) head first oldest)
  · exact congrArg _ (popEvent_of_timebaseDeferred (s := s.wordAt ..) head first waits)

end Sys2Proof.Machine
end

/-! ## The queue of commands, the ID register and the access errors (R163 to R166, R173) -/

section
namespace Sys2Proof.Machine

/-! ### The queue of commands -/

/-- Settles O1: it is the first arm of `step`. -/
theorem stepTakesFrontCommand : Obligations.StepTakesFrontCommand := by
  intro c rest s front
  unfold step
  rw [front]

theorem CoreKept.queue {s t : State} (h : CoreKept s t) :
    t.pending = s.pending ∧ t.draws = s.draws :=
  ⟨h.pending, h.draws⟩

theorem writePmem_queue (w : Word) (s : State) :
    (writePmem w s).pending = s.pending ∧ (writePmem w s).draws = s.draws := by
  unfold writePmem
  split <;> exact ⟨rfl, rfl⟩

theorem writeReg_queue (r : Reg) (w : Word) (s : State) :
    (writeReg r w s).pending = s.pending ∧ (writeReg r w s).draws = s.draws := by
  by_cases hr : r = .pmemData
  · subst hr
    exact writePmem_queue w s
  · exact (CoreKept.writeReg hr w s).queue

/-- Each effect is made of operations `CoreKept` or `RunKeeps` speaks of, or is an update of fields
other than the model's own queue and draws (logs 1 and 3). -/
theorem CommandEffect.queue {s t : State} (h : CommandEffect s t) :
    t.pending = s.pending ∧ t.draws = s.draws := by
  cases h with
  | written i r w => exact writeReg_queue r w (s.advanceFrame .write i)
  | laneCommanded op lane => exact (CoreKept.writeLaneCmd op lane (s.advanceFrame ..)).queue
  | wordRead i => exact (CoreKept.readAt i (s.advanceFrame .read i)).queue
  | frameCut cut => exact (CoreKept.cutWord cut s).queue
  | laneActed h => exact (RunKeeps.laneEvent h).coreKept.queue
  | tickEnded => exact ((CoreKept.boundaryEdge s).trans (.tickEnds _)).queue
  | edge => exact ((CoreKept.monitorEdge s).trans (.tickEdge _)).queue
  | locked => exact (CoreKept.lockNow s).queue
  | lossDetected => exact ((CoreKept.detectLoss s).trans (RunKeeps.settle ..).coreKept).queue
  | sampled i => exact (CoreKept.takeSample i s).queue
  | nothing | unmapped | frameHeld | frameBegun | frameEnded | poweredUp | released | held
  | cleared | highPhaseEnded | periodEnded | pinChanged => exact ⟨rfl, rfl⟩

/-- Settles O2: none of the effects a command can have is one on the queue or on the draws. -/
theorem commandsKeepTheQueue : Obligations.CommandsKeepTheQueue :=
  fun _ _ _ h => (exec_effect h).queue

/-! ### The ID register -/

theorem readReg_id (s : State) : readReg .id s = 0x06140100 := rfl

/-- Settles O5: the register's word is no field of the state, so no access and no write touches
it. -/
theorem idReadsItsNumber : Obligations.IdReadsItsNumber := by
  refine ⟨rfl, rfl, fun s => ⟨readReg_id s, rfl, ?_⟩, fun _ _ t _ => readReg_id t⟩
  rw [readReg_id]
  decide

/-! ### Accesses the port does not grant -/

theorem regAt_index {i : Index} {r : Reg} (h : regAt i = some r) : r.index = i := by
  have all : ∀ j : Index, ∀ q ∈ regAt j, q.index = j := by decide
  exact all i r h

theorem readAt_unmapped {i : Index} (h : regAt i = none) (s : State) :
    readAt i s =
      { s.portError .badIndex i with
        port := { (s.portError .badIndex i).port with lastRead := some 0 } } := by
  simp only [readAt, h]

theorem writeAt_unmapped {i : Index} (h : regAt i = none) (w : Word) (s : State) :
    writeAt i w s = s.portError .badIndex i := by
  simp only [writeAt, h]

theorem writeReg_readOnly {r : Reg} (h : r.access = .ro) (w : Word) (s : State) :
    writeReg r w s = s.portError .readOnly r.index := by
  cases r with
  | id | hostStatus | cmdResult | portErr | tbStatus | time | groupStatus | inLevel
  | capqHead0 | capqHead1 | capqHead2
  | evqHead0 | evqHead1 | evqHead2 | evqHead3 | evqStatus
  | laneStatus | laneStep | lanePass => rfl
  | _ => cases h

theorem writeAt_readOnly {i : Index} {r : Reg} (hr : regAt i = some r) (h : r.access = .ro)
    (w : Word) (s : State) : writeAt i w s = s.portError .readOnly i := by
  simp only [writeAt, hr, writeReg_readOnly h, regAt_index hr]

/-- Settles O13: the port judges each access by its index alone, behind the frame's advance. -/
theorem accessErrors : Obligations.AccessErrors := by
  refine ⟨fun i w s listens unmapped => ⟨?_, ?_⟩, fun i w r s listens mapped readOnly => ?_⟩
  · simp only [exec, execBadIndex, hostWord_of_listens listens, writeAt_unmapped unmapped]
    rfl
  · simp only [exec, execBadIndex, hostWord_of_listens listens, readAt_unmapped unmapped]
    rfl
  · simp only [exec, execReadOnlyWrite, hostWord_of_listens listens,
      writeAt_readOnly mapped readOnly]
    rfl

end Sys2Proof.Machine
end

/-! ## A word as a step record (R177) -/

section
namespace Sys2Proof

/-! ### The fields of a word as parts of its number -/

section

variable (w : Word) (lo len : Nat)

theorem Word.extract_eq : w.extractLsb' lo len = BitVec.ofNat len (w.toNat / 2 ^ lo) := by
  rw [← Nat.shiftRight_eq_div_pow]
  rfl

theorem Word.extract_low_eq : w.extractLsb' 0 len = BitVec.ofNat len w.toNat := rfl

theorem Word.toNat_extract : (w.extractLsb' lo len).toNat = w.toNat / 2 ^ lo % 2 ^ len := by
  rw [BitVec.extractLsb'_toNat, Nat.shiftRight_eq_div_pow]

theorem Word.extract_eq_zero_iff : w.extractLsb' lo len = 0 ↔ w.toNat / 2 ^ lo % 2 ^ len = 0 := by
  rw [← BitVec.toNat_inj, Word.toNat_extract]
  rfl

theorem Word.extract_low_eq_zero_iff : w.extractLsb' 0 len = 0 ↔ w.toNat % 2 ^ len = 0 := by
  simpa only [Nat.pow_zero, Nat.div_one] using Word.extract_eq_zero_iff w 0 len

theorem Word.extract_of_code {k : Nat} (h : w.toNat / 2 ^ lo % 2 ^ len = k) :
    w.extractLsb' lo len = BitVec.ofNat len k := by
  rw [Word.extract_eq, ← h]
  exact BitVec.eq_of_toNat_eq (by simp)

theorem Word.bit_eq : w.getLsbD lo = decide (w.toNat / 2 ^ lo % 2 = 1) :=
  Nat.testBit_eq_decide_div_mod_eq

end

/-! ### Decoding what R177 calls illegal, and the kinds without fields -/

theorem decodeSource_illegal {c : BitVec 4} (h : 6 ≤ c.toNat) : decodeSource c = none := by
  unfold decodeSource
  split
  case h_7 => rfl
  all_goals omega

section

variable {w : Word}

theorem decodeStep_of_endPass (h : w.extractLsb' 28 4 = 0) : decodeStep w = some .endPass := by
  simp only [decodeStep, h]
  rfl

theorem decodeStep_of_next (h : w.extractLsb' 28 4 = 4) : decodeStep w = some .next := by
  simp only [decodeStep, h]
  rfl

theorem decodeStep_of_back (h : w.extractLsb' 28 4 = 6) : decodeStep w = some .back := by
  simp only [decodeStep, h]
  rfl

theorem decodeStep_illegalKind (h : 10 ≤ (w.extractLsb' 28 4).toNat) : decodeStep w = none := by
  unfold decodeStep
  split
  case h_11 => rfl
  all_goals omega

end

/-- Settles O53: the kind chooses the decoder's equation, and each field that equation takes is the
part of the word's number that stands at its place. -/
theorem stepRecordLayout : Obligations.StepRecordLayout := by
  intro w kind level
  have fits : kind < 16 := by have := w.isLt; omega
  have code {k : Nat} (h : kind = k) : w.extractLsb' 28 4 = BitVec.ofNat 4 k :=
    Word.extract_of_code w 28 4 (by omega)
  have level_eq (lo : Nat) : decodeLevel (w.extractLsb' lo 2) = level (w.toNat / 2 ^ lo % 4) := by
    rw [Word.extract_of_code w lo 2 rfl]
    have : w.toNat / 2 ^ lo % 4 < 4 := Nat.mod_lt _ (by decide)
    interval_cases w.toNat / 2 ^ lo % 4 <;> rfl
  have wait {src : WaitSource} (h : kind = 2) (named : w.extractLsb' 24 4 = sourceCode src) :
      decodeStep w = some (.wait src (level (w.toNat / 2 ^ 22 % 4))
        (decide (w.toNat / 2 ^ 21 % 2 = 1)) (BitVec.ofNat 16 w.toNat)) := by
    rw [decodeStep_of_wait (code h), named, decodeSource_sourceCode, Option.map_some, level_eq,
      Word.bit_eq, Word.extract_low_eq]
  refine ⟨fun h => decodeStep_of_endPass (code h), fun h zero => ?_, fun h nonzero => ?_,
    fun h illegal => ?_, fun i h src => wait h (Word.extract_of_code w 24 4 src),
    fun g h src => wait h (Word.extract_of_code w 24 4 src), fun h zero => ?_,
    fun h nonzero => ?_, fun h => decodeStep_of_next (code h),
    fun h => decodeStep_of_back (code h), fun h => decodeStep_of_sub (code h),
    fun h => decodeStep_of_link (code h), fun h => decodeStep_of_signal (code h),
    fun h zero => ?_, fun h high low => ?_, fun h => decodeStep_illegalKind ?_⟩
  · rw [decodeStep_of_hold (code h), if_pos ((Word.extract_low_eq_zero_iff w 20).mpr zero)]
  · rw [decodeStep_of_hold (code h), if_neg (mt (Word.extract_low_eq_zero_iff w 20).mp nonzero),
      level_eq, Word.extract_low_eq]
  · rw [decodeStep_of_wait (code h), decodeSource_illegal (by rwa [Word.toNat_extract]),
      Option.map_none]
  · rw [decodeStep_of_loop (code h), if_pos ((Word.extract_low_eq_zero_iff w 12).mpr zero)]
  · rw [decodeStep_of_loop (code h), if_neg (mt (Word.extract_low_eq_zero_iff w 12).mp nonzero),
      Word.extract_low_eq]
  · rw [decodeStep_of_tune (code h), if_pos]
    rwa [Word.extract_eq_zero_iff, Word.extract_low_eq_zero_iff]
  · rw [decodeStep_of_tune (code h), if_neg, Word.bit_eq, Word.extract_eq, Word.extract_low_eq]
    · simp only [decide_eq_true_eq]
    · rw [Word.extract_eq_zero_iff, Word.extract_low_eq_zero_iff]
      exact not_or.mpr ⟨high, low⟩
  · rwa [code rfl, BitVec.toNat_ofNat, Nat.mod_eq_of_lt fits]

end Sys2Proof
end
